-- ==== Sys2Proof/Word.lean ====
section
/-! DEFINITION. The word types of the engine (00_scope R6, R8): every register value is unsigned. -/
namespace Sys2Proof

/-- A memory byte, a general register, a timer (10_state R31, R39, R45). -/
abbrev Byte := BitVec 8

/-- An instruction word, I, pc, a saved return address (10_state R34, R35, R37; 30_encoding R100). -/
abbrev Word := BitVec 16

/-- A register selector: each of its values names a register (10_state R31). -/
abbrev RegIx := Fin 16

/-- `zext_16` of a byte (00_scope R8). -/
def Byte.zext16 (b : Byte) : Word := b.setWidth 16

end Sys2Proof
end

