-- ==== Sys2Proof/Syntax.lean ====
section
/-! DEFINITION. The 34 instructions (30_encoding R105), one constructor per row of spec/opcode_table.json. A selector is
a `RegIx`, an address and an immediate are the bits of their field (R101, R103), and DRW's height is a count. -/
namespace Sys2Proof

inductive Instr where
  /-- 00E0, clear screen (44_display R240). -/
  | cls
  /-- 00EE, return (41_control_flow R151). -/
  | ret
  /-- 1nnn, jump (R152). -/
  | jp (nnn : BitVec 12)
  /-- 2nnn, call (R153). -/
  | call (nnn : BitVec 12)
  /-- 3xkk, skip if equal to an immediate (R154). -/
  | seImm (x : RegIx) (kk : Byte)
  /-- 4xkk, skip if not equal to an immediate (R155). -/
  | sneImm (x : RegIx) (kk : Byte)
  /-- 5xy0, skip if registers are equal (R156). -/
  | seReg (x y : RegIx)
  /-- 6xkk, set register (42_alu R181). -/
  | ldImm (x : RegIx) (kk : Byte)
  /-- 7xkk, add an immediate (R182). -/
  | addImm (x : RegIx) (kk : Byte)
  /-- 8xy0, copy (R184). -/
  | ldReg (x y : RegIx)
  /-- 8xy1 (R185). -/
  | orReg (x y : RegIx)
  /-- 8xy2 (R186). -/
  | andReg (x y : RegIx)
  /-- 8xy3 (R187). -/
  | xorReg (x y : RegIx)
  /-- 8xy4, add with carry out (R188). -/
  | addReg (x y : RegIx)
  /-- 8xy5, subtract (R189). -/
  | subReg (x y : RegIx)
  /-- 8xy6, shift right; y is encoded and ignored (R190, R116). -/
  | shr (x y : RegIx)
  /-- 8xy7, reverse subtract (R191). -/
  | subnReg (x y : RegIx)
  /-- 8xyE, shift left; y is encoded and ignored (R192, R116). -/
  | shl (x y : RegIx)
  /-- 9xy0, skip if registers differ (R157). -/
  | sneReg (x y : RegIx)
  /-- Annn, set I (43_index_memory R210). -/
  | ldI (nnn : BitVec 12)
  /-- Bnnn, jump with offset V0 (R158). -/
  | jpV0 (nnn : BitVec 12)
  /-- Cxkk, random AND an immediate (R193). -/
  | rnd (x : RegIx) (kk : Byte)
  /-- Dxyn, draw a sprite of `n` rows (44_display R243). -/
  | drw (x y : RegIx) (n : Nat)
  /-- Ex9E, skip if the key is pressed (45_input_timers R280). -/
  | skp (x : RegIx)
  /-- ExA1, skip if the key is not pressed (R281). -/
  | sknp (x : RegIx)
  /-- Fx07, read the delay timer (R282). -/
  | ldVxDt (x : RegIx)
  /-- Fx0A, wait for a key (R283). -/
  | ldVxK (x : RegIx)
  /-- Fx15, set the delay timer (R284). -/
  | ldDtVx (x : RegIx)
  /-- Fx18, set the sound timer (R285). -/
  | ldStVx (x : RegIx)
  /-- Fx1E, add a register to I (R211). -/
  | addI (x : RegIx)
  /-- Fx29, point I at a font glyph (R212). -/
  | ldF (x : RegIx)
  /-- Fx33, store BCD (R215). -/
  | ldB (x : RegIx)
  /-- Fx55, store V0..Vx (R216). -/
  | storeRegs (x : RegIx)
  /-- Fx65, load V0..Vx (R217). -/
  | loadRegs (x : RegIx)
deriving DecidableEq, Repr

end Sys2Proof
end

