-- ==== Sys2Proof/Decode.lean ====
section
/-! DEFINITION. Decoding, total on every word and on every list of bytes, and the encoder beside it (30_encoding R100 to
R116, 40_engine R132). The opcode values are the spec's, taken by it from general knowledge (D1; log entry 5). -/
namespace Sys2Proof

/-- The two outcomes of decoding a word (30_encoding R112, 40_engine R132). -/
inductive Decoded where
  /-- The word matches a row of the opcode map (R105). -/
  | instr (i : Instr)
  /-- The word matches no row: `Unknown(w)` (R111). -/
  | unknown (w : Word)
deriving DecidableEq, Repr

/-- Why a list of bytes yields no instruction. -/
inductive Reject where
  /-- Fewer than the two bytes of a word (R100). -/
  | truncated
  /-- The first two bytes are an unknown word (R111). -/
  | unknownWord (w : Word)
deriving DecidableEq, Repr

/-! Fields (30_encoding R101). -/

/-- family = w[15:12]. -/
def fieldFamily (w : Word) : BitVec 4 := w.extractLsb' 12 4

/-- x = w[11:8]. -/
def fieldX (w : Word) : RegIx := (w.extractLsb' 8 4).toFin

/-- y = w[7:4]. -/
def fieldY (w : Word) : RegIx := (w.extractLsb' 4 4).toFin

/-- n = w[3:0]. -/
def fieldN (w : Word) : BitVec 4 := w.extractLsb' 0 4

/-- kk = w[7:0]. -/
def fieldKk (w : Word) : Byte := w.extractLsb' 0 8

/-- nnn = w[11:0]. -/
def fieldNnn (w : Word) : BitVec 12 := w.extractLsb' 0 12

/-! The secondary selectors. -/

/-- Family 0 matches the whole word (R106). -/
def decodeFamily0 (w : Word) : Decoded :=
  if w = 0x00E0#16 then .instr .cls
  else if w = 0x00EE#16 then .instr .ret
  else .unknown w

/-- Family 5 matches only with w[3:0] = 0 (R107). -/
def decodeFamily5 (w : Word) : Decoded :=
  if fieldN w = 0x0#4 then .instr (.seReg (fieldX w) (fieldY w)) else .unknown w

/-- Family 8 selects on w[3:0] (R108). -/
def decodeFamily8 (w : Word) : Decoded :=
  match fieldN w with
  | 0x0#4 => .instr (.ldReg (fieldX w) (fieldY w))
  | 0x1#4 => .instr (.orReg (fieldX w) (fieldY w))
  | 0x2#4 => .instr (.andReg (fieldX w) (fieldY w))
  | 0x3#4 => .instr (.xorReg (fieldX w) (fieldY w))
  | 0x4#4 => .instr (.addReg (fieldX w) (fieldY w))
  | 0x5#4 => .instr (.subReg (fieldX w) (fieldY w))
  | 0x6#4 => .instr (.shr (fieldX w) (fieldY w))
  | 0x7#4 => .instr (.subnReg (fieldX w) (fieldY w))
  | 0xE#4 => .instr (.shl (fieldX w) (fieldY w))
  | _ => .unknown w

/-- Family 9 matches only with w[3:0] = 0 (R107). -/
def decodeFamily9 (w : Word) : Decoded :=
  if fieldN w = 0x0#4 then .instr (.sneReg (fieldX w) (fieldY w)) else .unknown w

/-- Family E selects on w[7:0] (R109). -/
def decodeFamilyE (w : Word) : Decoded :=
  match fieldKk w with
  | 0x9E#8 => .instr (.skp (fieldX w))
  | 0xA1#8 => .instr (.sknp (fieldX w))
  | _ => .unknown w

/-- Family F selects on w[7:0] (R110). -/
def decodeFamilyF (w : Word) : Decoded :=
  match fieldKk w with
  | 0x07#8 => .instr (.ldVxDt (fieldX w))
  | 0x0A#8 => .instr (.ldVxK (fieldX w))
  | 0x15#8 => .instr (.ldDtVx (fieldX w))
  | 0x18#8 => .instr (.ldStVx (fieldX w))
  | 0x1E#8 => .instr (.addI (fieldX w))
  | 0x29#8 => .instr (.ldF (fieldX w))
  | 0x33#8 => .instr (.ldB (fieldX w))
  | 0x55#8 => .instr (.storeRegs (fieldX w))
  | 0x65#8 => .instr (.loadRegs (fieldX w))
  | _ => .unknown w

/-- Decode: pure bit extraction, total over the 65,536 words (30_encoding R104, R105; 40_engine R132). -/
def decodeWord (w : Word) : Decoded :=
  match fieldFamily w with
  | 0x0#4 => decodeFamily0 w
  | 0x1#4 => .instr (.jp (fieldNnn w))
  | 0x2#4 => .instr (.call (fieldNnn w))
  | 0x3#4 => .instr (.seImm (fieldX w) (fieldKk w))
  | 0x4#4 => .instr (.sneImm (fieldX w) (fieldKk w))
  | 0x5#4 => decodeFamily5 w
  | 0x6#4 => .instr (.ldImm (fieldX w) (fieldKk w))
  | 0x7#4 => .instr (.addImm (fieldX w) (fieldKk w))
  | 0x8#4 => decodeFamily8 w
  | 0x9#4 => decodeFamily9 w
  | 0xA#4 => .instr (.ldI (fieldNnn w))
  | 0xB#4 => .instr (.jpV0 (fieldNnn w))
  | 0xC#4 => .instr (.rnd (fieldX w) (fieldKk w))
  | 0xD#4 => .instr (.drw (fieldX w) (fieldY w) (fieldN w).toNat)
  | 0xE#4 => decodeFamilyE w
  | 0xF#4 => decodeFamilyF w
  | _ => .unknown w   -- no value of 4 bits is left

/-- The word two bytes compose, the first one in bits 15:8 (20_memory R76). -/
def composeWord (hi lo : Byte) : Word := hi ++ lo

/-- The two bytes of a word in the order memory holds them (20_memory R76). -/
def wordBytes (w : Word) : List Byte := [w.extractLsb' 8 8, w.extractLsb' 0 8]

/-- Decode the instruction at the head of a list of bytes; answers it with the bytes after it. -/
def decodeBytes : List Byte → Except Reject (Instr × List Byte)
  | hi :: lo :: rest =>
    match decodeWord (composeWord hi lo) with
    | .instr i => .ok (i, rest)
    | .unknown w => .error (.unknownWord w)
  | _ => .error .truncated

/-! The encoder (30_encoding R102, R116): the fields over the fixed bits of the pattern. -/

/-- A selector's 4 bits. -/
def selBits (x : RegIx) : BitVec 4 := BitVec.ofFin x

/-- Format NNN. -/
def formNnn (f : BitVec 4) (nnn : BitVec 12) : Word := f ++ nnn

/-- Formats XKK and XS: the low byte is an immediate or a selector. -/
def formXkk (f : BitVec 4) (x : RegIx) (kk : Byte) : Word := f ++ (selBits x ++ kk : BitVec 12)

/-- Formats XYS and XYN: the low nibble is a selector or a height. -/
def formXyn (f : BitVec 4) (x y : RegIx) (n : BitVec 4) : Word :=
  f ++ (selBits x ++ (selBits y ++ n : BitVec 8) : BitVec 12)

/-- `encode(mnemonic, operands)` (30_encoding R116). -/
def encode : Instr → Word
  | .cls => 0x00E0#16
  | .ret => 0x00EE#16
  | .jp nnn => formNnn 0x1#4 nnn
  | .call nnn => formNnn 0x2#4 nnn
  | .seImm x kk => formXkk 0x3#4 x kk
  | .sneImm x kk => formXkk 0x4#4 x kk
  | .seReg x y => formXyn 0x5#4 x y 0x0#4
  | .ldImm x kk => formXkk 0x6#4 x kk
  | .addImm x kk => formXkk 0x7#4 x kk
  | .ldReg x y => formXyn 0x8#4 x y 0x0#4
  | .orReg x y => formXyn 0x8#4 x y 0x1#4
  | .andReg x y => formXyn 0x8#4 x y 0x2#4
  | .xorReg x y => formXyn 0x8#4 x y 0x3#4
  | .addReg x y => formXyn 0x8#4 x y 0x4#4
  | .subReg x y => formXyn 0x8#4 x y 0x5#4
  | .shr x y => formXyn 0x8#4 x y 0x6#4
  | .subnReg x y => formXyn 0x8#4 x y 0x7#4
  | .shl x y => formXyn 0x8#4 x y 0xE#4
  | .sneReg x y => formXyn 0x9#4 x y 0x0#4
  | .ldI nnn => formNnn 0xA#4 nnn
  | .jpV0 nnn => formNnn 0xB#4 nnn
  | .rnd x kk => formXkk 0xC#4 x kk
  | .drw x y n => formXyn 0xD#4 x y (BitVec.ofNat 4 n)
  | .skp x => formXkk 0xE#4 x 0x9E#8
  | .sknp x => formXkk 0xE#4 x 0xA1#8
  | .ldVxDt x => formXkk 0xF#4 x 0x07#8
  | .ldVxK x => formXkk 0xF#4 x 0x0A#8
  | .ldDtVx x => formXkk 0xF#4 x 0x15#8
  | .ldStVx x => formXkk 0xF#4 x 0x18#8
  | .addI x => formXkk 0xF#4 x 0x1E#8
  | .ldF x => formXkk 0xF#4 x 0x29#8
  | .ldB x => formXkk 0xF#4 x 0x33#8
  | .storeRegs x => formXkk 0xF#4 x 0x55#8
  | .loadRegs x => formXkk 0xF#4 x 0x65#8

/-- The bytes of an instruction as memory holds them (20_memory R76). -/
def encodeBytes (i : Instr) : List Byte := wordBytes (encode i)

/-! The opcode table's numbering: its one word's bit 0 is the least significant bit. -/

/-- The word whose low `nbits` bits are those of `w` and whose other bits are 0. -/
def tableWord (nbits w : Nat) : Word := BitVec.ofNat 16 (w % 2 ^ nbits)

/-- The instruction the decoder reads from a row's word laid out as the hardware stores it. -/
def decodeTableWord (nbits w : Nat) : Option Instr :=
  match decodeBytes (wordBytes (tableWord nbits w)) with
  | .ok (i, _) => some i
  | .error _ => none

end Sys2Proof
end

