-- ==== Sys2Proof/Config.lean ====
section
/-! DEFINITION. What is fixed for the machine (00_scope R6), and the free values of its environment: constants with no
body, so that nothing can be proved about what they are (42_alu R196, 10_state R56, R57, R63; log entries 1 and 2). -/
namespace Sys2Proof

/-- `MEM_SIZE` (00_scope R6): addresses 0x000 to 0xFFF exist. -/
def Config.memSize : Nat := 4096

/-- `STACK_DEPTH` (00_scope R6; the 17th push faults, 92_eei_decisions D13; log entry 15). -/
def Config.stackDepth : Nat := 16

/-- `FONT_BASE`, where glyph 0 lies (00_scope R6). -/
def Config.fontBase : Nat := 0x000

/-- `PROG_BASE`, where the image is loaded and pc starts (00_scope R6). -/
def Config.progBase : Nat := 0x200

/-- `MAX_IMAGE` (00_scope R6, 70_reset_and_hazards R334). -/
def Config.maxImage : Nat := Config.memSize - Config.progBase

/-- The random byte of the `n`-th step: a free draw under no law (42_alu R196, D18). -/
opaque Config.freeRandom : Nat → BitVec 8

/-- The key snapshot of the `n`-th step: a free input (10_state R56, D22). -/
opaque Config.freeKeys : Nat → BitVec 16

/-- How many `tick_delay` the driver runs before the `n`-th step (10_state R63, D21). -/
opaque Config.freeDelayTicks : Nat → Nat

/-- How many `tick_sound` the driver runs before the `n`-th step (10_state R63, D21). -/
opaque Config.freeSoundTicks : Nat → Nat

/-- Whether the renderer calls `take_dirty` before the `n`-th step (10_state R59, R63). -/
opaque Config.freeTakesDirty : Nat → Bool

end Sys2Proof
end

