-- ==== Sys2Proof/Machine/State.lean ====
section
/-! DEFINITION. The state record (10_state R30) as plain data, the fault codes (60_exceptions R302), and the state after
reset (10_state R49). -/
namespace Sys2Proof.Machine

/-- The suspension state (10_state R43). -/
inductive Mode where
  | running
  /-- Fx0A with no key pressed waits; `x` is the register the key's index goes to (40_engine R138). -/
  | awaitingKey (x : RegIx)
deriving DecidableEq, Repr

/-- What an access that is out of range was for (20_memory R72). -/
inductive AccessKind where
  | fetch
  | read
  | write
deriving DecidableEq, Repr

/-- The fault codes with the info they record (60_exceptions R302). A fault ends the run (R300). -/
inductive Fault where
  /-- Code 1: raised by CALL at address `p` with 16 return addresses saved (R303). Safe: the engine stops there too. -/
  | stackOverflow (p : Word)
  /-- Code 2: raised by RET at address `p` with none saved (R304). Safe: the engine stops there too. -/
  | stackUnderflow (p : Word)
  /-- Code 3: raised by a fetch, by DRW, LD B, LD [I] and LD Vx, [I]; `a` is the first address above 0xFFF (R305). Safe:
  the engine stops there too. -/
  | memoryOutOfBounds (a : Nat) (kind : AccessKind)
  /-- Code 4: raised by SKP and SKNP; `v` is V[x], above 0x0F (45_input_timers R292). Safe: the engine may only go on
  where the model stops (D12; log entry 14). -/
  | keyIndexOutOfRange (v : Byte)
deriving DecidableEq, Repr

/-- The number of a fault code (60_exceptions R302). -/
def Fault.code : Fault → Nat
  | .stackOverflow _ => 1
  | .stackUnderflow _ => 2
  | .memoryOutOfBounds _ _ => 3
  | .keyIndexOutOfRange _ => 4

/-- Why the model gives an instruction no meaning. -/
inductive Refusal where
  /-- Raised by an arm of `exec` that has no meaning yet; the model has none left. Safe: it stops. -/
  | notModelled (mnemonic : String)
deriving DecidableEq, Repr

/-- `Diagnostic(pc, word)`, what the logger receives for an unknown opcode (10_state R62, 60_exceptions R306). -/
structure Diagnostic where
  pc : Word
  word : Word
deriving DecidableEq, Repr

/-- What the environment does around one step: its actions since the step before (10_state R63), and the snapshot and
the random byte the step samples (R56, R57). -/
structure StepInput where
  delayTicks : Nat
  soundTicks : Nat
  takesDirty : Bool
  keys : BitVec 16
  random : Byte
deriving DecidableEq, Repr

/-- Memory as the bytes that differ from the reset contents, addresses strictly rising (10_state R45). -/
abbrev Memory := List Host.Cell

/-- The 64 × 32 grid of 1-bit pixels, row-major: row y is a run of 64 pixels (10_state R41). -/
abbrev Framebuffer := Vector (Vector Bool 64) 32

/-- The state record of 10_state R30, then the model's own fields: the step's inputs and the outputs to the logger, which
R48 and R62 leave outside the engine's state (log entries 1, 2, 18). -/
structure State where
  /-- V0..VF (R31); VF is `v[15]` (R32). -/
  v : Vector Byte 16
  /-- The index register (R34). -/
  i : Word
  /-- The program counter (R35). -/
  pc : Word
  /-- Saved return addresses, top last; SP is its length (R37). -/
  stack : List Word
  /-- The delay timer DT (R39). -/
  dt : Byte
  /-- The sound timer ST (R40). -/
  st : Byte
  /-- The framebuffer (R41). -/
  fb : Framebuffer
  /-- The dirty flag (R42). -/
  dirty : Bool
  /-- Running or AwaitingKey (R43). -/
  mode : Mode
  /-- The sticky fault record (R44). -/
  fault : Option Fault
  /-- Memory (R45). -/
  mem : Memory
  /-- This step's input snapshot: bit k is `Key(k)` (R56). -/
  keys : BitVec 16
  /-- This step's random byte (R57). -/
  random : Byte
  /-- What the environment does around the next steps, oldest first; past its end it is free. -/
  inputs : List StepInput
  /-- How many steps have sampled their inputs. -/
  inputCount : Nat
  /-- The diagnostics the logger has received, newest first (R62). -/
  diagnostics : List Diagnostic
deriving DecidableEq, Repr

/-- Every pixel off. -/
def blankFb : Framebuffer := Vector.replicate 32 (Vector.replicate 64 false)

/-- The engine after reset and the font's load, no image loaded (10_state R49, 70_reset_and_hazards R330, R334). Memory
lists nothing: an unlisted address reads as its reset contents. -/
def State.reset : State where
  v := Vector.replicate 16 0x00#8
  i := 0x0000#16
  pc := 0x0200#16
  stack := []
  dt := 0x00#8
  st := 0x00#8
  fb := blankFb
  dirty := false
  mode := .running
  fault := none
  mem := []
  keys := 0x0000#16
  random := 0x00#8
  inputs := []
  inputCount := 0
  diagnostics := []

end Sys2Proof.Machine
end

