-- ==== Sys2Proof/Machine/Font.lean ====
section
/-! DEFINITION. The built-in font (70_reset_and_hazards R331, R333) and the reset contents of memory (10_state R49). The
font's bytes are the spec's default for its parameter FONT, from general knowledge (D16; log entry 4). -/
namespace Sys2Proof.Machine

/-- Glyphs 0 to 7, five bytes each, top row first (R333). -/
def fontLow : List Byte :=
  [0xF0, 0x90, 0x90, 0x90, 0xF0,
   0x20, 0x60, 0x20, 0x20, 0x70,
   0xF0, 0x10, 0xF0, 0x80, 0xF0,
   0xF0, 0x10, 0xF0, 0x10, 0xF0,
   0x90, 0x90, 0xF0, 0x10, 0x10,
   0xF0, 0x80, 0xF0, 0x10, 0xF0,
   0xF0, 0x80, 0xF0, 0x90, 0xF0,
   0xF0, 0x10, 0x20, 0x40, 0x40]

/-- Glyphs 8 to F (R333). -/
def fontHigh : List Byte :=
  [0xF0, 0x90, 0xF0, 0x90, 0xF0,
   0xF0, 0x90, 0xF0, 0x10, 0xF0,
   0xF0, 0x90, 0xF0, 0x90, 0x90,
   0xE0, 0x90, 0xE0, 0x90, 0xE0,
   0xF0, 0x80, 0x80, 0x80, 0xF0,
   0xE0, 0x90, 0x90, 0x90, 0xE0,
   0xF0, 0x80, 0xF0, 0x80, 0xF0,
   0xF0, 0x80, 0xF0, 0x80, 0x80]

/-- FONT: 80 bytes (00_scope R7, 70_reset_and_hazards R333). -/
def font : List Byte := fontLow ++ fontHigh

/-- What an address that memory does not list reads as: the reset contents, FONT at 0x000..0x04F and 0x00 elsewhere
(10_state R49; log entries 3 and 4). -/
def unlistedByte (a : Nat) : Byte := (font[a - Config.fontBase]?).getD 0x00

end Sys2Proof.Machine
end

