-- ==== Sys2Proof/Machine/Ops.lean ====
section
/-! DEFINITION. The named operations over the state: registers, memory, stack, program counter, framebuffer, the raising
of a fault, loading, and fetching. -/
namespace Sys2Proof.Machine

/-- What a meaning answers. -/
abbrev Result := Host.Outcome State Fault Refusal

/-! Registers (00_scope R9, 10_state R31). -/

/-- VF, index 0xF (10_state R32). -/
def vf : RegIx := 15

/-- `V[x]`. -/
def State.reg (s : State) (x : RegIx) : Byte := s.v[x]

/-- `V[x] <- b`. -/
def State.setReg (s : State) (x : RegIx) (b : Byte) : State := { s with v := s.v.set x b }

/-- The registers with `V[j]`, `V[j+1]`, … replaced by the bytes, in ascending order (43_index_memory R217). -/
def setRegsFrom (v : Vector Byte 16) (j : Nat) : List Byte → Vector Byte 16
  | [] => v
  | b :: bs => setRegsFrom (if h : j < 16 then v.set j b else v) (j + 1) bs

/-- The values of V0..Vx in ascending order (43_index_memory R216). -/
def regsUpTo (s : State) (x : RegIx) : List Byte := s.v.toList.take (x.val + 1)

/-- `I <- w`. -/
def State.setI (s : State) (w : Word) : State := { s with i := w }

/-- `DT <- b`. -/
def State.setDt (s : State) (b : Byte) : State := { s with dt := b }

/-- `ST <- b`. -/
def State.setSt (s : State) (b : Byte) : State := { s with st := b }

/-- The registers replaced as a whole. -/
def State.setV (s : State) (v : Vector Byte 16) : State := { s with v := v }

/-! The program counter (40_engine R135); additions are modulo 2^16 (10_state R36). -/

/-- `pc <- target`. -/
def State.setPc (s : State) (w : Word) : State := { s with pc := w }

/-- `pc <- p + 2`, for every instruction not noted otherwise (40_engine R135). -/
def State.advance (s : State) : State := s.setPc (s.pc + 2)

/-- `pc <- p + 4` when the predicate holds, otherwise `p + 2` (40_engine R135, R137). -/
def State.skipIf (s : State) (c : Bool) : State := s.setPc (if c then s.pc + 4 else s.pc + 2)

/-! The call stack (10_state R37), the mode (R43) and memory as a whole. -/

/-- The stack replaced. -/
def State.setStack (s : State) (st : List Word) : State := { s with stack := st }

/-- `mode <- m`. -/
def State.setMode (s : State) (m : Mode) : State := { s with mode := m }

/-- Memory replaced. -/
def State.setMem (s : State) (m : Memory) : State := { s with mem := m }

/-! Faults (60_exceptions R300, R301): the one shared operation by which an instruction or a fetch raises one. The engine
has no trap entry, no vector and no return from a fault (R310, R311): the run ends (log entry 16). -/

/-- `raise Fault(code, info)`: the step answers the fault and nothing of the instruction is written (R301). -/
def raise (f : Fault) (_ : State) : Result := .fault f

/-- `fault <- Fault(code, info)`, all that a faulting step writes (R300, R301). -/
def State.recordFault (s : State) (f : Fault) : State := { s with fault := some f }

/-! Memory (20_memory R70 to R75). Addresses are integers and are never reduced (R72). -/

/-- `mem[a]`. -/
def readByte : Memory → Nat → Byte
  | [], a => unlistedByte a
  | (c, b) :: m, a => if a = c then b else readByte m a

/-- `mem[a] <- b`, in canonical form: rising addresses, no byte listed that equals the reset contents. -/
def writeByte : Memory → Nat → Byte → Memory
  | [], a, b => if b = unlistedByte a then [] else [(a, b)]
  | (c, d) :: m, a, b =>
    if a < c then (if b = unlistedByte a then (c, d) :: m else (a, b) :: (c, d) :: m)
    else if a = c then (if b = unlistedByte a then m else (a, b) :: m)
    else (c, d) :: writeByte m a b

/-- The `n` bytes at `a`, `a + 1`, … (20_memory R77). -/
def readBytes (m : Memory) (a : Nat) : Nat → List Byte
  | 0 => []
  | n + 1 => readByte m a :: readBytes m (a + 1) n

/-- The bytes written at `a`, `a + 1`, …, ascending (20_memory R77). -/
def writeBytes (m : Memory) (a : Nat) : List Byte → Memory
  | [] => m
  | b :: bs => writeBytes (writeByte m a b) (a + 1) bs

/-- Addresses strictly rise, starting at `lo` or above, each exists, and no byte equals the reset contents. -/
def wfFrom (lo : Nat) : Memory → Bool
  | [] => true
  | (a, b) :: m => decide (lo ≤ a) && decide (a < Config.memSize) && decide (b ≠ unlistedByte a) && wfFrom (a + 1) m

/-- The canonical form of memory: equal memories are equal lists. -/
def Memory.wf (m : Memory) : Bool := wfFrom 0 m

/-- The check of every address an access of `len` bytes at `base` touches, before it touches one: the fault with the first
address out of range, if there is one (20_memory R72, R75). -/
def boundsFault (base len : Nat) (kind : AccessKind) : Option Fault :=
  if len = 0 ∨ base + len ≤ Config.memSize then none
  else some (.memoryOutOfBounds (max base Config.memSize) kind)

/-! Fetch (40_engine R131). -/

/-- Two bytes at pc, big-endian; checked like every access, with kind Fetch. It does not advance pc. -/
def fetch (s : State) : Except Fault Word :=
  match boundsFault s.pc.toNat 2 .fetch with
  | some f => .error f
  | none => .ok (composeWord (readByte s.mem s.pc.toNat) (readByte s.mem (s.pc.toNat + 1)))

/-! The framebuffer (10_state R41, 44_display R240 to R245). -/

/-- The pixel at column `px`, row `py`. -/
def pixel (fb : Framebuffer) (px : Fin 64) (py : Fin 32) : Bool := fb[py][px]

/-- `FB[px][py] <- FB[px][py] ^ 1`. -/
def togglePixel (fb : Framebuffer) (px : Fin 64) (py : Fin 32) : Framebuffer :=
  fb.set py (fb[py].set px (!pixel fb px py))

/-- The columns of a sprite byte's set bits, left to right: column c is bit 7 − c (44_display R242; log entry 12). -/
def litColumns (row : Byte) : List Nat := (List.range 8).filter fun c => row.getLsbD (7 - c)

/-- Where column offset `c` of row `j` of a sprite drawn at `(xs, ys)` lands: both axes wrap (44_display R241). -/
def wrapPoint (xs ys : Byte) (c j : Nat) : Fin 64 × Fin 32 :=
  (Fin.ofNat 64 (xs.toNat + c), Fin.ofNat 32 (ys.toNat + j))

/-- The pixels under the set bits of the sprite rows, the first of them row `j`, in the order they are toggled (R243). -/
def spritePixels (xs ys : Byte) (j : Nat) : List Byte → List (Fin 64 × Fin 32)
  | [] => []
  | row :: rows => (litColumns row).map (fun c => wrapPoint xs ys c j) ++ spritePixels xs ys (j + 1) rows

/-- Toggle the pixels in turn; the flag is set when one was on before its toggle (44_display R243, R244). -/
def togglePixels (fb : Framebuffer) (collide : Bool) : List (Fin 64 × Fin 32) → Framebuffer × Bool
  | [] => (fb, collide)
  | p :: ps => togglePixels (togglePixel fb p.1 p.2) (collide || pixel fb p.1 p.2) ps

/-- `draw(x, y, sprite_bytes) -> collision` (44_display R245). -/
def drawSprite (fb : Framebuffer) (xs ys : Byte) (rows : List Byte) : Framebuffer × Bool :=
  togglePixels fb false (spritePixels xs ys 0 rows)

/-- The framebuffer replaced and `dirty <- true`, as CLS and DRW do (10_state R42). -/
def State.paint (s : State) (fb : Framebuffer) : State := { s with fb := fb, dirty := true }

/-! The input snapshot (10_state R56). -/

/-- `Key(k)`. -/
def State.key (s : State) (k : Nat) : Bool := s.keys.getLsbD k

/-- The least k in 0x0..0xF with `Key(k)` (40_engine R138, D11; log entry 13). -/
def State.leastKey (s : State) : Option Nat := (List.range 16).find? fun k => s.key k

/-! Diagnostics (60_exceptions R306). -/

/-- `emit Diagnostic(info)`: the logger receives it; the engine never reads it back. -/
def State.emit (s : State) (d : Diagnostic) : State := { s with diagnostics := d :: s.diagnostics }

/-! Loading (70_reset_and_hazards R330 to R334). -/

/-- Memory with the font's bytes at 0x000 (R331); FONT is a parameter (00_scope R7). -/
def loadFont (m : Memory) (bytes : List Byte) : Memory := writeBytes m Config.fontBase bytes

/-- The engine with an image loaded at 0x200, ready for its first step; an image longer than 3584 bytes is rejected and
the engine never starts (R332, R334; log entry 26). -/
def State.loadProgram (s : State) (image : List Byte) : Option State :=
  if image.length ≤ Config.maxImage then some (s.setMem (writeBytes s.mem Config.progBase image)) else none

/-- The word placed where the next step fetches it: at pc, in a state that fetches (40_engine R130, R131). Where pc has
no two bytes of memory under it there is no such place, and memory keeps (log entry 21). -/
def State.placeWord (s : State) (w : Word) : State :=
  { s with
    mem := if s.pc.toNat + 2 ≤ Config.memSize then writeBytes s.mem s.pc.toNat (wordBytes w) else s.mem
    mode := .running
    fault := none }

end Sys2Proof.Machine
end

