-- ==== Sys2Proof/Machine/Flags.lean ====
section
/-! DEFINITION. What the side-effect writers of VF write (10_state R32), as the byte 0x00 or 0x01, and the order in which
a result and its flag are written (42_alu R183). -/
namespace Sys2Proof.Machine

/-- A flag's byte: 1 when it holds, else 0. -/
def flagByte (c : Bool) : Byte := if c then 1 else 0

/-- The carry out of bit 7: the unsigned sum is above 255 (42_alu R188). -/
def carryFlag (a b : Byte) : Byte := flagByte (decide (a.toNat + b.toNat > 255))

/-- NOT borrow of `a − b`: 1 when `a ≥ b` (42_alu R189, R191). -/
def noBorrowFlag (a b : Byte) : Byte := flagByte (decide (a.toNat ≥ b.toNat))

/-- The bit a right shift by one shifts out (42_alu R190). -/
def shrFlag (a : Byte) : Byte := flagByte (a.getLsbD 0)

/-- The bit a left shift by one shifts out (42_alu R192). -/
def shlFlag (a : Byte) : Byte := flagByte (a.getLsbD 7)

/-- The collision flag (44_display R243). -/
def collisionFlag (collide : Bool) : Byte := flagByte collide

/-- `V[x] <- res`, then `VF <- fl`: when x = 0xF the flag is what remains (42_alu R183, D5; log entry 8). -/
def State.setResultFlag (s : State) (x : RegIx) (res fl : Byte) : State := (s.setReg x res).setReg vf fl

end Sys2Proof.Machine
end

