-- ==== Sys2Proof/Machine/Operands.lean ====
section
/-! DEFINITION. The operand forms (30_encoding R103): a register, a register as a 16-bit addend, an address, an address
plus V0, a key index, a font glyph, the memory at I, and the decimal digits of a byte. -/
namespace Sys2Proof.Machine

/-- `zext_16(nnn)` (30_encoding R103). -/
def addrOperand (nnn : BitVec 12) : Word := nnn.setWidth 16

/-- `zext_16(nnn) + zext_16(V[0])` (41_control_flow R158). -/
def offsetOperand (s : State) (nnn : BitVec 12) : Word := addrOperand nnn + (s.reg 0).zext16

/-- `(I + zext_16(a)) mod 65536` (43_index_memory R211). -/
def indexSum (s : State) (x : RegIx) : Word := s.i + (s.reg x).zext16

/-- The address of a byte's font glyph, `zext_16(a) * 5`, the whole byte and not its low nibble (43_index_memory R212). -/
def glyphAddr (a : Byte) : Word := a.zext16 * 5

/-- A key index above 0x0F has no entry in the snapshot (45_input_timers R292). -/
def keyIndexFault (a : Byte) : Option Fault :=
  if a.toNat ≤ 0x0F then none else some (.keyIndexOutOfRange a)

/-- The base address of a memory transfer: I as an integer (43_index_memory R213, 20_memory R72). -/
def memBase (s : State) : Nat := s.i.toNat

/-- Hundreds, tens and ones of a byte, each stored as a byte 0x00..0x09 (43_index_memory R214). -/
def bcdDigits (a : Byte) : List Byte :=
  [BitVec.ofNat 8 (a.toNat / 100), BitVec.ofNat 8 (a.toNat / 10 % 10), BitVec.ofNat 8 (a.toNat % 10)]

end Sys2Proof.Machine
end

