-- ==== Sys2Proof/Machine/Alu.lean ====
section
/-! DEFINITION. The register file and the ALU (42_alu): unsigned bytes, results modulo 256 (R180, R194). Every
instruction here advances pc by 2 and raises no fault. -/
namespace Sys2Proof.Machine

/-- `V[x] <- res` and pc + 2, VF written only when x = 0xF. -/
def State.finishReg (s : State) (x : RegIx) (res : Byte) : State := (s.setReg x res).advance

/-- `V[x] <- res; VF <- fl` in the order of R183, and pc + 2. -/
def State.finishFlag (s : State) (x : RegIx) (res fl : Byte) : State := (s.setResultFlag x res fl).advance

/-- LD Vx, kk (R181). -/
def execLdImm (x : RegIx) (kk : Byte) (s : State) : Result := .next (s.finishReg x kk)

/-- ADD Vx, kk (R182): no flag. -/
def execAddImm (x : RegIx) (kk : Byte) (s : State) : Result := .next (s.finishReg x (s.reg x + kk))

/-- LD Vx, Vy (R184). -/
def execLdReg (x y : RegIx) (s : State) : Result := .next (s.finishReg x (s.reg y))

/-- OR Vx, Vy (R185): VF is unchanged (D6; log entry 9). -/
def execOrReg (x y : RegIx) (s : State) : Result := .next (s.finishReg x (s.reg x ||| s.reg y))

/-- AND Vx, Vy (R186): VF is unchanged (D6; log entry 9). -/
def execAndReg (x y : RegIx) (s : State) : Result := .next (s.finishReg x (s.reg x &&& s.reg y))

/-- XOR Vx, Vy (R187): VF is unchanged (D6; log entry 9). -/
def execXorReg (x y : RegIx) (s : State) : Result := .next (s.finishReg x (s.reg x ^^^ s.reg y))

/-- ADD Vx, Vy (R188): VF is the carry out. -/
def execAddReg (x y : RegIx) (s : State) : Result :=
  .next (s.finishFlag x (s.reg x + s.reg y) (carryFlag (s.reg x) (s.reg y)))

/-- SUB Vx, Vy (R189): VF is NOT borrow of V[x] − V[y]. -/
def execSubReg (x y : RegIx) (s : State) : Result :=
  .next (s.finishFlag x (s.reg x - s.reg y) (noBorrowFlag (s.reg x) (s.reg y)))

/-- SHR Vx (R190): V[x] itself is shifted, y is ignored (D4; log entry 7). -/
def execShr (x _y : RegIx) (s : State) : Result :=
  .next (s.finishFlag x (s.reg x >>> 1) (shrFlag (s.reg x)))

/-- SUBN Vx, Vy (R191): VF is NOT borrow of V[y] − V[x]. -/
def execSubnReg (x y : RegIx) (s : State) : Result :=
  .next (s.finishFlag x (s.reg y - s.reg x) (noBorrowFlag (s.reg y) (s.reg x)))

/-- SHL Vx (R192): V[x] itself is shifted, y is ignored (D4; log entry 7). -/
def execShl (x _y : RegIx) (s : State) : Result :=
  .next (s.finishFlag x (s.reg x <<< 1) (shlFlag (s.reg x)))

/-- RND Vx, kk (R193): the step's random byte, a free draw (R196; log entry 2). -/
def execRnd (x : RegIx) (kk : Byte) (s : State) : Result := .next (s.finishReg x (s.random &&& kk))

end Sys2Proof.Machine
end

