-- ==== Sys2Proof/Machine/ControlFlow.lean ====
section
/-! DEFINITION. Control flow (41_control_flow): RET, JP, CALL, the register and immediate skips, JP V0. No flag is
affected, and a target above 0xFFE is accepted here and faults at the next fetch (R150; log entry 19). -/
namespace Sys2Proof.Machine

/-- RET (R151): pop the last entry `t`, then `pc <- t + 2`; an empty stack faults (60_exceptions R304). -/
def execRet (s : State) : Result :=
  match s.stack.getLast? with
  | none => raise (.stackUnderflow s.pc) s
  | some t => .next ((s.setStack s.stack.dropLast).setPc (t + 2))

/-- JP nnn (R152). -/
def execJp (nnn : BitVec 12) (s : State) : Result := .next (s.setPc (addrOperand nnn))

/-- CALL nnn (R153): push the CALL's own address, then jump; with 16 entries saved it faults (60_exceptions R303; log
entries 15 and 23). -/
def execCall (nnn : BitVec 12) (s : State) : Result :=
  if s.stack.length < Config.stackDepth then
    .next ((s.setStack (s.stack ++ [s.pc])).setPc (addrOperand nnn))
  else raise (.stackOverflow s.pc) s

/-- SE Vx, kk (R154). -/
def execSeImm (x : RegIx) (kk : Byte) (s : State) : Result := .next (s.skipIf (s.reg x == kk))

/-- SNE Vx, kk (R155). -/
def execSneImm (x : RegIx) (kk : Byte) (s : State) : Result := .next (s.skipIf (s.reg x != kk))

/-- SE Vx, Vy (R156). -/
def execSeReg (x y : RegIx) (s : State) : Result := .next (s.skipIf (s.reg x == s.reg y))

/-- SNE Vx, Vy (R157). -/
def execSneReg (x y : RegIx) (s : State) : Result := .next (s.skipIf (s.reg x != s.reg y))

/-- JP V0, nnn (R158): the offset register is always V0. -/
def execJpV0 (nnn : BitVec 12) (s : State) : Result := .next (s.setPc (offsetOperand s nnn))

end Sys2Proof.Machine
end

