-- ==== Sys2Proof/Machine/Display.lean ====
section
/-! DEFINITION. The framebuffer sprite compositor (44_display): CLS and DRW. -/
namespace Sys2Proof.Machine

/-- CLS (R240): every pixel off, `dirty` set, VF kept. -/
def execCls (s : State) : Result := .next (s.paint blankFb).advance

/-- What DRW makes of the framebuffer, with its collision: the coordinates are V[x] and V[y] from before VF is written,
the rows the `n` bytes at I (44_display R243). -/
def drawResult (s : State) (x y : RegIx) (n : Nat) : Framebuffer × Bool :=
  drawSprite s.fb (s.reg x) (s.reg y) (readBytes s.mem (memBase s) n)

/-- DRW Vx, Vy, n (R243): `n` = 0 reads nothing, draws nothing, clears VF and sets `dirty` (D9; log entry 11). -/
def execDrw (x y : RegIx) (n : Nat) (s : State) : Result :=
  match boundsFault (memBase s) n .read with
  | some f => raise f s
  | none =>
    .next ((s.paint (drawResult s x y n).1).setReg vf (collisionFlag (drawResult s x y n).2)).advance

end Sys2Proof.Machine
end

