-- ==== Sys2Proof/Machine/IndexMemory.lean ====
section
/-! DEFINITION. The index register and the memory transfers (43_index_memory). A transfer checks every address before the
first access (20_memory R75) and leaves I unchanged (R213, D7; log entry 10). -/
namespace Sys2Proof.Machine

/-- `I <- w` and pc + 2; VF is not written (D8; log entry 9). -/
def State.finishI (s : State) (w : Word) : State := (s.setI w).advance

/-- Bytes stored at I, I+1, … after the check of every address, and pc + 2. -/
def storeAtIndex (bytes : List Byte) (s : State) : Result :=
  match boundsFault (memBase s) bytes.length .write with
  | some f => raise f s
  | none => .next (s.setMem (writeBytes s.mem (memBase s) bytes)).advance

/-- LD I, nnn (R210). -/
def execLdI (nnn : BitVec 12) (s : State) : Result := .next (s.finishI (addrOperand nnn))

/-- ADD I, Vx (R211): modulo 2^16. -/
def execAddI (x : RegIx) (s : State) : Result := .next (s.finishI (indexSum s x))

/-- LD F, Vx (R212): five times the whole byte. -/
def execLdF (x : RegIx) (s : State) : Result := .next (s.finishI (glyphAddr (s.reg x)))

/-- LD B, Vx (R215): hundreds, tens and ones at I, I+1, I+2. -/
def execLdB (x : RegIx) (s : State) : Result := storeAtIndex (bcdDigits (s.reg x)) s

/-- LD [I], Vx (R216): V0..Vx, ascending. -/
def execStoreRegs (x : RegIx) (s : State) : Result := storeAtIndex (regsUpTo s x) s

/-- LD Vx, [I] (R217): V0..Vx from memory, ascending; registers above x are untouched. -/
def execLoadRegs (x : RegIx) (s : State) : Result :=
  match boundsFault (memBase s) (x.val + 1) .read with
  | some f => raise f s
  | none => .next (s.setV (setRegsFrom s.v 0 (readBytes s.mem (memBase s) (x.val + 1)))).advance

end Sys2Proof.Machine
end

