-- ==== Sys2Proof/Machine/InputTimers.lean ====
section
/-! DEFINITION. Input keys and timers (45_input_timers): SKP, SKNP, LD Vx, DT, LD Vx, K, LD DT, Vx, LD ST, Vx. -/
namespace Sys2Proof.Machine

/-- A skip on the key V[x] names, which faults when V[x] names none (R292). -/
def skipOnKey (x : RegIx) (want : Bool) (s : State) : Result :=
  match keyIndexFault (s.reg x) with
  | some f => raise f s
  | none => .next (s.skipIf (s.key (s.reg x).toNat == want))

/-- SKP Vx (R280). -/
def execSkp (x : RegIx) (s : State) : Result := skipOnKey x true s

/-- SKNP Vx (R281). -/
def execSknp (x : RegIx) (s : State) : Result := skipOnKey x false s

/-- LD Vx, DT (R282). -/
def execLdVxDt (x : RegIx) (s : State) : Result := .next ((s.setReg x s.dt).advance)

/-- The pressed key `k` stored in V[x], and pc past the Fx0A (R283, 40_engine R138). -/
def State.takeKey (s : State) (x : RegIx) (k : Nat) : State := (s.setReg x (BitVec.ofNat 8 k)).advance

/-- What LD Vx, K leaves: the least pressed key in V[x], or AwaitingKey(x) with pc kept (R283; log entry 13). -/
def State.awaitKey (s : State) (x : RegIx) : State :=
  match s.leastKey with
  | some k => s.takeKey x k
  | none => s.setMode (.awaitingKey x)

/-- LD Vx, K (R283). -/
def execLdVxK (x : RegIx) (s : State) : Result := .next (s.awaitKey x)

/-- LD DT, Vx (R284). -/
def execLdDtVx (x : RegIx) (s : State) : Result := .next ((s.setDt (s.reg x)).advance)

/-- LD ST, Vx (R285). -/
def execLdStVx (x : RegIx) (s : State) : Result := .next ((s.setSt (s.reg x)).advance)

end Sys2Proof.Machine
end

