-- ==== Sys2Proof/Machine/Env.lean ====
section
/-! DEFINITION. What the environment does between two steps (10_state R55, R59 to R63; 45_input_timers R290, R291), and
the sampling of a step's inputs at its start (R56, R57). Log entries 1 and 2. -/
namespace Sys2Proof.Machine

/-- One tick of a timer: decremented when above 0, so that it is clamped at 0 (45_input_timers R290, R291). -/
def tick (b : Byte) : Byte := if b = 0 then 0 else b - 1

/-- `n` ticks of a timer in one go. -/
def tickBy (b : Byte) (n : Nat) : Byte := BitVec.ofNat 8 (b.toNat - n)

/-- `tick_delay`, a driver action (45_input_timers R290). -/
def State.tickDelay (s : State) : State := s.setDt (tick s.dt)

/-- `tick_sound`, a driver action (45_input_timers R291). -/
def State.tickSound (s : State) : State := s.setSt (tick s.st)

/-- `take_dirty() -> bool (read-and-reset)`, a renderer action (10_state R59). -/
def State.takeDirty (s : State) : Bool × State := (s.dirty, { s with dirty := false })

/-- `sound_on = (ST != 0)`, the audio output (10_state R60). -/
def State.soundOn (s : State) : Bool := s.st != 0

/-- What the environment does around the next step: the oldest entry of `inputs`; past the list's end every part of it
is a free value of its own. -/
def State.nextInput (s : State) : StepInput :=
  match s.inputs with
  | e :: _ => e
  | [] =>
    { delayTicks := Config.freeDelayTicks s.inputCount
      soundTicks := Config.freeSoundTicks s.inputCount
      takesDirty := Config.freeTakesDirty s.inputCount
      keys := Config.freeKeys s.inputCount
      random := Config.freeRandom s.inputCount }

/-- The environment's actions since the step before, then the sampling of the snapshot and the random byte (10_state
R56, R57, R63). Only DT, ST, `dirty` and the model's own input fields change. -/
def State.arrive (s : State) : State :=
  { s with
    dt := tickBy s.dt s.nextInput.delayTicks
    st := tickBy s.st s.nextInput.soundTicks
    dirty := s.dirty && !s.nextInput.takesDirty
    keys := s.nextInput.keys
    random := s.nextInput.random
    inputs := s.inputs.tail
    inputCount := s.inputCount + 1 }

end Sys2Proof.Machine
end

