-- ==== Sys2Proof/Machine/Engine.lean ====
section
/-! DEFINITION. One step of the engine on the inputs it has sampled (40_engine R130): the key wait, the unknown opcode, and
fetch, decode and execute. -/
namespace Sys2Proof.Machine

/-- `resolve_wait(x, K)` (R138): the least pressed key goes to V[x] and the engine runs on; with no key pressed nothing
changes. -/
def resolveWait (x : RegIx) (s : State) : State :=
  match s.leastKey with
  | some k => (s.takeKey x k).setMode .running
  | none => s

/-- An unknown opcode (R136): a diagnostic, pc + 2, nothing else (60_exceptions R306; log entry 6). -/
def execUnknown (w : Word) (s : State) : Result := .next (s.emit { pc := s.pc, word := w }).advance

/-- Execute what decoding yields: an instruction or `Unknown` (R133). -/
def execDecoded (d : Decoded) (s : State) : Result :=
  match d with
  | .instr i => exec i s
  | .unknown w => execUnknown w s

/-- Fetch, decode, execute (R130); a fetch fault comes first (60_exceptions R308). -/
def runInstruction (s : State) : Result :=
  match fetch s with
  | .error f => raise f s
  | .ok w => execDecoded (decodeWord w) s

/-- The step in the mode the engine is in; in AwaitingKey nothing is fetched and nothing faults (R138). -/
def engineStep (s : State) : Result :=
  match s.mode with
  | .awaitingKey x => .next (resolveWait x s)
  | .running => runInstruction s

end Sys2Proof.Machine
end

