-- ==== Sys2Proof/Machine/Step.lean ====
section
/-! DEFINITION. The machine's one step: what the environment does between two steps, then `step(K, r)` of 40_engine R130. -/
namespace Sys2Proof.Machine

/-- After a fault there is no step: the state has no successor, and the answer is the recorded fault (R140; log entry
17). Otherwise the environment acts, the step's inputs are sampled (10_state R56, R57, R63), and the engine steps. -/
def step (s : State) : Host.Outcome State Fault Refusal :=
  match s.fault with
  | some f => .fault f
  | none => engineStep s.arrive

/-- `s` with the instruction whose bits are `w` stored where the next step fetches it (log entry 21). -/
def State.withFetchWord (s : State) (nbits w : Nat) : State := s.placeWord (tableWord nbits w)

end Sys2Proof.Machine
end

