-- ==== Sys2Proof/Machine/Driver.lean ====
section
/-! DEFINITION. The engine as its driver sees it (10_state R55, R58): the state after a step whatever its outcome, the
sticky fault record among it (60_exceptions R300, R301), and the environment's actions one by one. -/
namespace Sys2Proof.Machine

/-- The state after one call of `step`: a completed step leaves its next state; a faulting step leaves the state it
began with, `fault` set (R300, R301); after a fault nothing changes (40_engine R140). -/
def State.afterStep (s : State) : State :=
  match s.fault with
  | some _ => s
  | none =>
    match step s with
    | .next t => t
    | .fault f => s.arrive.recordFault f
    | .refused _ => s.arrive

/-- What a step returns to the driver (10_state R58). -/
inductive Report where
  | ok
  | fault (f : Fault)
  /-- The engine has no step to take: its run is over (40_engine R140). -/
  | noStep
deriving DecidableEq, Repr

/-- What the call of `step` returns (10_state R58). -/
def State.report (s : State) : Report :=
  match s.fault with
  | some _ => .noStep
  | none =>
    match step s with
    | .next _ => .ok
    | .fault f => .fault f
    | .refused _ => .noStep

/-- What the environment can do to the engine (10_state R55). -/
inductive Action where
  /-- One step, with what the environment does around it. -/
  | step (e : StepInput)
  | tickDelay
  | tickSound
  | takeDirty
deriving DecidableEq, Repr

/-- The state after an action; `step`'s inputs are put at the head of those still to come. -/
def State.act (s : State) : Action → State
  | .step e => State.afterStep { s with inputs := e :: s.inputs }
  | .tickDelay => s.tickDelay
  | .tickSound => s.tickSound
  | .takeDirty => s.takeDirty.2

/-- Reset and load (70_reset_and_hazards R330): the font, a parameter, at 0x000, then the image at 0x200; none where
the loader rejects the image (R334). -/
def State.boot (fontBytes image : List Byte) : Option State :=
  (State.reset.setMem (loadFont State.reset.mem fontBytes)).loadProgram image

end Sys2Proof.Machine
end

