-- ==== Sys2Proof/Safety.lean ====
section
/-! DEFINITION. What claims are stated in: the invariant of the machine, the parts of a state that a frame keeps, what a
sprite covers, and the idle point. -/
namespace Sys2Proof.Machine

/-! The invariant. -/

/-- SP is 0 to 16 (10_state R37, R46). -/
def StackFits (s : State) : Prop := s.stack.length ≤ Config.stackDepth

/-- Each saved return address is one an instruction was fetched at (10_state R36, R37). -/
def ReturnsFetched (s : State) : Prop := ∀ t ∈ s.stack, t.toNat ≤ 0xFFE

/-- pc never exceeds the largest target, so that no pc addition wraps (10_state R36). -/
def PcBounded (s : State) : Prop := s.pc.toNat ≤ 0x10FE

/-- In AwaitingKey(x), pc holds the address of the Fx0A that entered the mode (40_engine R139). -/
def WaitsAtKeyWait (s : State) : Prop :=
  ∀ x, s.mode = .awaitingKey x → fetch s = .ok (encode (.ldVxK x))

/-- The invariant every step keeps. -/
structure Invariant (s : State) : Prop where
  /-- Memory is in canonical form: no address above 0xFFF is listed (10_state R45). -/
  memory : s.mem.wf = true
  stack : StackFits s
  returns : ReturnsFetched s
  pc : PcBounded s
  waits : WaitsAtKeyWait s

/-! Frames: `t` has what `s` had. -/

/-- Every general register that is no destination. -/
def SameRegsBut (dest : RegIx → Prop) (s t : State) : Prop := ∀ k, ¬ dest k → t.reg k = s.reg k

/-- Every byte of memory. -/
def SameMemory (s t : State) : Prop := ∀ a, readByte t.mem a = readByte s.mem a

/-- Every byte of memory outside the `len` bytes stored at `base`. -/
def SameMemoryOutside (base len : Nat) (s t : State) : Prop :=
  ∀ a, (a < base ∨ base + len ≤ a) → readByte t.mem a = readByte s.mem a

/-- Every pixel, and the dirty flag. -/
def SameScreen (s t : State) : Prop := (∀ px py, pixel t.fb px py = pixel s.fb px py) ∧ t.dirty = s.dirty

/-- Both timers. -/
def SameTimers (s t : State) : Prop := t.dt = s.dt ∧ t.st = s.st

/-- The stack. -/
def SameStack (s t : State) : Prop := t.stack = s.stack

/-- The mode and the fault record. -/
def SameStatus (s t : State) : Prop := t.mode = s.mode ∧ t.fault = s.fault

/-- The model's own fields: the sampled inputs, those to come, and the diagnostics. -/
def SameOutside (s t : State) : Prop :=
  t.keys = s.keys ∧ t.random = s.random ∧ t.inputs = s.inputs ∧ t.inputCount = s.inputCount ∧
    t.diagnostics = s.diagnostics

/-- All but the registers and pc. -/
def SameButRegs (s t : State) : Prop :=
  t.i = s.i ∧ SameStack s t ∧ SameTimers s t ∧ SameScreen s t ∧ SameStatus s t ∧ SameMemory s t ∧ SameOutside s t

/-- All but the destination registers and pc: the frame of an instruction that writes registers alone. -/
def OnlyRegs (dest : RegIx → Prop) (s t : State) : Prop := SameRegsBut dest s t ∧ SameButRegs s t

/-- All but pc: the frame of a jump or a skip. -/
def OnlyPc (s t : State) : Prop := OnlyRegs (fun _ => False) s t

/-- All but I and pc. -/
def OnlyIndex (s t : State) : Prop :=
  SameRegsBut (fun _ => False) s t ∧ SameStack s t ∧ SameTimers s t ∧ SameScreen s t ∧ SameStatus s t ∧
    SameMemory s t ∧ SameOutside s t

/-- All but the stack and pc. -/
def OnlyStack (s t : State) : Prop :=
  SameRegsBut (fun _ => False) s t ∧ t.i = s.i ∧ SameTimers s t ∧ SameScreen s t ∧ SameStatus s t ∧
    SameMemory s t ∧ SameOutside s t

/-- All but the `len` bytes stored at `base`, and pc. -/
def OnlyStored (base len : Nat) (s t : State) : Prop :=
  SameRegsBut (fun _ => False) s t ∧ t.i = s.i ∧ SameStack s t ∧ SameTimers s t ∧ SameScreen s t ∧
    SameStatus s t ∧ SameMemoryOutside base len s t ∧ SameOutside s t

/-- All but the framebuffer, `dirty`, the destination registers and pc. -/
def OnlyScreen (dest : RegIx → Prop) (s t : State) : Prop :=
  SameRegsBut dest s t ∧ t.i = s.i ∧ SameStack s t ∧ SameTimers s t ∧ SameStatus s t ∧ SameMemory s t ∧
    SameOutside s t

/-- All but DT, ST and pc. -/
def OnlyTimers (s t : State) : Prop :=
  SameRegsBut (fun _ => False) s t ∧ t.i = s.i ∧ SameStack s t ∧ SameScreen s t ∧ SameStatus s t ∧
    SameMemory s t ∧ SameOutside s t

/-! Sprites. -/

/-- A set bit of an `n`-row sprite at I, drawn at `(xs, ys)`, lies over the pixel: column offset `c` of row `j` is bit
7 − c of the byte at I + j, and both axes wrap (44_display R241, R242). -/
def Covers (s : State) (xs ys : Byte) (n : Nat) (px : Fin 64) (py : Fin 32) : Prop :=
  ∃ j c, j < n ∧ c < 8 ∧ (readByte s.mem (s.i.toNat + j)).getLsbD (7 - c) = true ∧
    px.val = (xs.toNat + c) % 64 ∧ py.val = (ys.toNat + j) % 32

/-! Steps. -/

/-- The engine fetches at its next step: it runs, and no fault is recorded (40_engine R130). -/
def Fetching (s : State) : Prop := s.mode = .running ∧ s.fault = none

/-- The next step executes `i`: the engine fetches, and the two bytes at pc exist and decode to `i` (40_engine R130 to
R132). -/
def Runs (s : State) (i : Instr) : Prop :=
  Fetching s ∧ s.pc.toNat + 2 ≤ 0x1000 ∧
    decodeBytes [readByte s.mem s.pc.toNat, readByte s.mem (s.pc.toNat + 1)] = .ok (i, [])

/-- The idle point: a jump to itself stands at pc (70_reset_and_hazards R345). -/
def Idle (s : State) : Prop := ∃ nnn, Runs s (.jp nnn) ∧ s.pc = addrOperand nnn

end Sys2Proof.Machine
end

