-- ==== Sys2Proof/Certificates/Slice0/Obligations.lean ====
section
/-! DEFINITION. The statements, in the order of the spec's files. A docstring names the rule a statement formalises, and
says so where it rests on a decision that the spec marks as its own (92_eei_decisions) or on a log entry. -/
open Sys2Proof Sys2Proof.Machine

/-! ## Encoding (30_encoding) -/

/-- One word of each of the 34 rows of the opcode map decodes to the instruction it stands for, and 0xFFFF to none (R105,
R110; opcode values by D1, log entry 5). -/
def Obligations.SampleWordsDecode : Prop :=
  decodeTableWord 16 0x00E0 = some .cls ∧ decodeTableWord 16 0x00EE = some .ret ∧
  decodeTableWord 16 0x1ABC = some (.jp 0xABC) ∧ decodeTableWord 16 0x2301 = some (.call 0x301) ∧
  decodeTableWord 16 0x3A5C = some (.seImm 0xA 0x5C) ∧ decodeTableWord 16 0x45C3 = some (.sneImm 5 0xC3) ∧
  decodeTableWord 16 0x51E0 = some (.seReg 1 0xE) ∧ decodeTableWord 16 0x6A42 = some (.ldImm 0xA 0x42) ∧
  decodeTableWord 16 0x7203 = some (.addImm 2 0x03) ∧ decodeTableWord 16 0x8120 = some (.ldReg 1 2) ∧
  decodeTableWord 16 0x8341 = some (.orReg 3 4) ∧ decodeTableWord 16 0x8562 = some (.andReg 5 6) ∧
  decodeTableWord 16 0x8783 = some (.xorReg 7 8) ∧ decodeTableWord 16 0x89A4 = some (.addReg 9 0xA) ∧
  decodeTableWord 16 0x8BC5 = some (.subReg 0xB 0xC) ∧ decodeTableWord 16 0x8DE6 = some (.shr 0xD 0xE) ∧
  decodeTableWord 16 0x8F07 = some (.subnReg 0xF 0) ∧ decodeTableWord 16 0x8F1E = some (.shl 0xF 1) ∧
  decodeTableWord 16 0x9D20 = some (.sneReg 0xD 2) ∧ decodeTableWord 16 0xA2F0 = some (.ldI 0x2F0) ∧
  decodeTableWord 16 0xB501 = some (.jpV0 0x501) ∧ decodeTableWord 16 0xC30F = some (.rnd 3 0x0F) ∧
  decodeTableWord 16 0xD12F = some (.drw 1 2 15) ∧ decodeTableWord 16 0xE59E = some (.skp 5) ∧
  decodeTableWord 16 0xEDA1 = some (.sknp 0xD) ∧ decodeTableWord 16 0xF307 = some (.ldVxDt 3) ∧
  decodeTableWord 16 0xF20A = some (.ldVxK 2) ∧ decodeTableWord 16 0xF115 = some (.ldDtVx 1) ∧
  decodeTableWord 16 0xF118 = some (.ldStVx 1) ∧ decodeTableWord 16 0xF61E = some (.addI 6) ∧
  decodeTableWord 16 0xFA29 = some (.ldF 0xA) ∧ decodeTableWord 16 0xF833 = some (.ldB 8) ∧
  decodeTableWord 16 0xF255 = some (.storeRegs 2) ∧ decodeTableWord 16 0xFF65 = some (.loadRegs 0xF) ∧
  decodeTableWord 16 0xFFFF = none

/-- Decode is the inverse of encode, for every well-formed instruction (R116; opcode values by D1, log entry 5). -/
def Obligations.DecodeInvertsEncode : Prop :=
  ∀ (i : Instr) (rest : List Byte), i.wellFormed = true →
    decodeWord (encode i) = .instr i ∧ decodeBytes (encodeBytes i ++ rest) = .ok (i, rest)

/-- `encode(decode(w)) = w` for every word that decodes to an instruction (R116). -/
def Obligations.EncodeInvertsDecode : Prop :=
  ∀ (w : Word) (i : Instr), decodeWord w = .instr i → encode i = w ∧ i.wellFormed = true

/-- Which words are unknown (R106 to R111, the exact matching of D2 and D3, log entry 6). -/
def Obligations.UnknownWordsExactly : Prop :=
  (∀ w u, decodeWord w = .unknown u → u = w) ∧
  ∀ w : Word, decodeWord w = .unknown w ↔
    (w.toNat / 4096 = 0x0 ∧ w.toNat ≠ 0x00E0 ∧ w.toNat ≠ 0x00EE) ∨
    ((w.toNat / 4096 = 0x5 ∨ w.toNat / 4096 = 0x9) ∧ w.toNat % 16 ≠ 0) ∨
    (w.toNat / 4096 = 0x8 ∧ 0x7 < w.toNat % 16 ∧ w.toNat % 16 ≠ 0xE) ∨
    (w.toNat / 4096 = 0xE ∧ w.toNat % 256 ∉ [0x9E, 0xA1]) ∨
    (w.toNat / 4096 = 0xF ∧ w.toNat % 256 ∉ [0x07, 0x0A, 0x15, 0x18, 0x1E, 0x29, 0x33, 0x55, 0x65])

/-! ## Reset and load (10_state R49, 70_reset_and_hazards R330 to R334) -/

/-- The state after reset (R49; every value but pc is the spec's decision D15, log entry 3). -/
def Obligations.ResetValues : Prop :=
  State.reset.pc = 0x200 ∧ (∀ k, State.reset.reg k = 0) ∧ State.reset.i = 0 ∧ State.reset.stack = [] ∧
  State.reset.dt = 0 ∧ State.reset.st = 0 ∧ (∀ px py, pixel State.reset.fb px py = false) ∧
  State.reset.dirty = false ∧ State.reset.mode = .running ∧ State.reset.fault = none

/-- Memory after reset: the default font at 0x000..0x04F (R333, D16, log entry 4), 0x00 above (D15, log entry 3). -/
def Obligations.ResetMemory : Prop :=
  (List.range 80).map (readByte State.reset.mem) =
    [0xF0, 0x90, 0x90, 0x90, 0xF0, 0x20, 0x60, 0x20, 0x20, 0x70, 0xF0, 0x10, 0xF0, 0x80, 0xF0, 0xF0, 0x10, 0xF0, 0x10, 0xF0,
     0x90, 0x90, 0xF0, 0x10, 0x10, 0xF0, 0x80, 0xF0, 0x10, 0xF0, 0xF0, 0x80, 0xF0, 0x90, 0xF0, 0xF0, 0x10, 0x20, 0x40, 0x40,
     0xF0, 0x90, 0xF0, 0x90, 0xF0, 0xF0, 0x90, 0xF0, 0x10, 0xF0, 0xF0, 0x90, 0xF0, 0x90, 0x90, 0xE0, 0x90, 0xE0, 0x90, 0xE0,
     0xF0, 0x80, 0x80, 0x80, 0xF0, 0xE0, 0x90, 0x90, 0x90, 0xE0, 0xF0, 0x80, 0xF0, 0x80, 0xF0, 0xF0, 0x80, 0xF0, 0x80, 0x80] ∧
  ∀ a, 80 ≤ a → readByte State.reset.mem a = 0

/-- Reset and load leave the values of R49, with any 80-byte font at 0x000, the image at 0x200, and 0x00 elsewhere; a longer
image than 3584 bytes gives no engine (R49, R330 to R332, R334; D15, D17, log entries 3 and 26). -/
def Obligations.BootLoadsFontAndImage : Prop :=
  ∀ fontBytes image : List Byte, fontBytes.length = 80 →
    (image.length ≤ 3584 → ∃ s, State.boot fontBytes image = some s ∧ s.pc = 0x200 ∧ (∀ k, s.reg k = 0) ∧ s.i = 0 ∧
      s.stack = [] ∧ s.dt = 0 ∧ s.st = 0 ∧ (∀ px py, pixel s.fb px py = false) ∧ s.dirty = false ∧
      s.mode = .running ∧ s.fault = none ∧ s.mem.wf = true ∧
      (∀ (j : Nat) (h : j < fontBytes.length), readByte s.mem j = fontBytes[j]) ∧
      (∀ (j : Nat) (h : j < image.length), readByte s.mem (0x200 + j) = image[j]) ∧
      (∀ a, 80 ≤ a → (a < 0x200 ∨ 0x200 + image.length ≤ a) → readByte s.mem a = 0)) ∧
    (3584 < image.length → State.boot fontBytes image = none)

/-! ## The step (40_engine) and the environment (10_state R55 to R63) -/

/-- When the bytes at pc decode to an instruction, the step is that instruction's execution in the state the environment
leaves (R130 to R133). -/
def Obligations.StepRunsDecodedInstruction : Prop :=
  ∀ s i, Runs s i → step s = exec i s.arrive

/-- What stands around `exec` in a step: the driver's ticks and `take_dirty` since the step before, and the sampling of the
inputs; no other state changes (R55, R56, R57, R63; log entries 1 and 2). -/
def Obligations.ArrivalIsDriverActions : Prop :=
  ∀ s : State,
    s.arrive.dt.toNat = s.dt.toNat - s.nextInput.delayTicks ∧
    s.arrive.st.toNat = s.st.toNat - s.nextInput.soundTicks ∧
    s.arrive.dirty = (if s.nextInput.takesDirty then false else s.dirty) ∧
    s.arrive.keys = s.nextInput.keys ∧ s.arrive.random = s.nextInput.random ∧
    s.arrive.inputs = s.inputs.tail ∧ s.arrive.inputCount = s.inputCount + 1 ∧
    s.arrive.diagnostics = s.diagnostics ∧ s.arrive.pc = s.pc ∧
    SameRegsBut (fun _ => False) s s.arrive ∧ s.arrive.i = s.i ∧ SameStack s s.arrive ∧
    (∀ px py, pixel s.arrive.fb px py = pixel s.fb px py) ∧ SameStatus s s.arrive ∧ SameMemory s s.arrive ∧
    ∀ e l, s.inputs = e :: l → s.nextInput = e

/-- Fetch is big-endian, at any alignment, and leaves pc (R76, R131): bits 15:8 are mem[pc]. -/
def Obligations.FetchIsBigEndian : Prop :=
  ∀ s : State, s.pc.toNat + 1 ≤ 0xFFF → ∃ w, fetch s = .ok w ∧
    w.toNat = 256 * (readByte s.mem s.pc.toNat).toNat + (readByte s.mem (s.pc.toNat + 1)).toNat

/-- With pc above 0xFFE the step faults with the first address out of range (R131, D26, log entry 20). -/
def Obligations.FetchFaultsAboveMemory : Prop :=
  ∀ s, Fetching s → 0xFFE < s.pc.toNat →
    step s = .fault (.memoryOutOfBounds (if 0xFFF < s.pc.toNat then s.pc.toNat else 0x1000) .fetch)

/-- An unknown opcode emits a diagnostic and advances pc by 2; nothing else that the engine has changes (R136). The record's
content is D23, and the list that holds it, newest first, is the model's choice (log entry 18); `s.arrive` is the state
after what the driver did before the step (log entry 1). -/
def Obligations.UnknownOpcodeIsNoOp : Prop :=
  (∀ s w, Fetching s → fetch s = .ok w → decodeWord w = .unknown w →
    ∃ t, step s = .next t ∧ t.pc = s.pc + 2 ∧ t.diagnostics = { pc := s.pc, word := w } :: s.diagnostics ∧
      SameRegsBut (fun _ => False) s t ∧ t.i = s.i ∧ SameStack s t ∧ SameTimers s.arrive t ∧
      SameScreen s.arrive t ∧ SameStatus s t ∧ SameMemory s t) ∧
  decodeWord 0xFFFF = .unknown 0xFFFF

/-- A step in AwaitingKey(x) fetches nothing and faults in no way: with no key pressed it changes nothing, with one it
stores the least pressed key and goes past the Fx0A (R138; the least key by D11, log entry 13). -/
def Obligations.AwaitingKeyStep : Prop :=
  ∀ s x, s.fault = none → s.mode = .awaitingKey x →
    ((∀ k < 16, s.nextInput.keys.getLsbD k = false) → step s = .next s.arrive) ∧
    ∀ k < 16, s.nextInput.keys.getLsbD k = true → (∀ j < k, s.nextInput.keys.getLsbD j = false) →
      ∃ t, step s = .next t ∧ (t.reg x).toNat = k ∧ t.pc = s.pc + 2 ∧ t.mode = .running ∧ t.fault = none ∧
        SameRegsBut (· = x) s t ∧ t.i = s.i ∧ SameStack s t ∧ SameTimers s.arrive t ∧ SameScreen s.arrive t ∧
        SameMemory s t ∧ t.diagnostics = s.diagnostics

/-! ## Call stack and program counter (41_control_flow) -/

/-- RET pops the last saved address and goes 2 past it; on an empty stack it faults and leaves pc and the stack (R151). -/
def Obligations.ReturnPopsAndAdvances : Prop :=
  ∀ s : State,
    (∀ below u, s.stack = below ++ [u] →
      ∃ t, exec .ret s = .next t ∧ t.pc = u + 2 ∧ t.stack = below ∧ OnlyStack s t) ∧
    (s.stack = [] → exec .ret s = .fault (.stackUnderflow s.pc) ∧
      (Runs s .ret → s.afterStep.pc = s.pc ∧ s.afterStep.stack = []))

/-- JP sets pc to the address, with no 2 added; a target of 0xFFF faults at the next fetch (R152). -/
def Obligations.JumpSetsPc : Prop :=
  ∀ nnn s, ∃ t, exec (.jp nnn) s = .next t ∧ t.pc.toNat = nnn.toNat ∧ OnlyPc s t ∧
    (nnn = 0xFFF → ∃ a, 0xFFF < a ∧ fetch t = .error (.memoryOutOfBounds a .fetch))

/-- CALL pushes its own address and jumps; with 16 addresses saved it faults (R153; the capacity by D13, log entry 15; a
longer stack, which no run reaches, faults too, log entry 23). -/
def Obligations.CallPushesOwnAddress : Prop :=
  ∀ nnn s,
    (s.stack.length < 16 → ∃ t, exec (.call nnn) s = .next t ∧ t.pc.toNat = nnn.toNat ∧
      t.stack = s.stack ++ [s.pc] ∧ OnlyStack s t) ∧
    (16 ≤ s.stack.length → exec (.call nnn) s = .fault (.stackOverflow s.pc))

/-- A CALL followed by a RET resumes 2 past the CALL, with the stack as before it (R159). -/
def Obligations.CallThenReturnRestores : Prop :=
  ∀ nnn s, s.stack.length < 16 → ∃ t u, exec (.call nnn) s = .next t ∧ exec .ret t = .next u ∧
    u.pc = s.pc + 2 ∧ OnlyPc s u

/-- The immediate skips: 4 when the predicate holds, else 2 (R154, R155). -/
def Obligations.ImmediateSkips : Prop :=
  ∀ x kk s,
    (∃ t, exec (.seImm x kk) s = .next t ∧ OnlyPc s t ∧
      (s.reg x = kk → t.pc = s.pc + 4) ∧ (s.reg x ≠ kk → t.pc = s.pc + 2)) ∧
    (∃ t, exec (.sneImm x kk) s = .next t ∧ OnlyPc s t ∧
      (s.reg x ≠ kk → t.pc = s.pc + 4) ∧ (s.reg x = kk → t.pc = s.pc + 2))

/-- The register skips (R156, R157). -/
def Obligations.RegisterSkips : Prop :=
  ∀ x y s,
    (∃ t, exec (.seReg x y) s = .next t ∧ OnlyPc s t ∧
      (s.reg x = s.reg y → t.pc = s.pc + 4) ∧ (s.reg x ≠ s.reg y → t.pc = s.pc + 2)) ∧
    (∃ t, exec (.sneReg x y) s = .next t ∧ OnlyPc s t ∧
      (s.reg x ≠ s.reg y → t.pc = s.pc + 4) ∧ (s.reg x = s.reg y → t.pc = s.pc + 2))

/-- JP V0 goes to the address plus V0, which never wraps; above 0xFFE the next fetch faults, and from the largest target
it reports 0x10FE (R158). -/
def Obligations.OffsetJump : Prop :=
  ∀ nnn s, ∃ t, exec (.jpV0 nnn) s = .next t ∧ t.pc.toNat = nnn.toNat + (s.reg 0).toNat ∧ OnlyPc s t ∧
    (0xFFE < t.pc.toNat → ∃ a, 0xFFF < a ∧ fetch t = .error (.memoryOutOfBounds a .fetch)) ∧
    (nnn = 0xFFF → s.reg 0 = 0xFF → t.pc.toNat = 0x10FE ∧ fetch t = .error (.memoryOutOfBounds 0x10FE .fetch))

/-! ## Registers and ALU (42_alu) -/

/-- LD Vx, kk and ADD Vx, kk: the value, and VF written only as a destination (R181, R182). -/
def Obligations.ImmediateResults : Prop :=
  ∀ x kk s,
    (∃ t, exec (.ldImm x kk) s = .next t ∧ t.reg x = kk ∧ t.pc = s.pc + 2 ∧ OnlyRegs (· = x) s t) ∧
    (∃ t, exec (.addImm x kk) s = .next t ∧ (t.reg x).toNat = ((s.reg x).toNat + kk.toNat) % 256 ∧
      t.pc = s.pc + 2 ∧ OnlyRegs (· = x) s t)

/-- LD Vx, Vy (R184) and the bitwise operations, bit by bit; VF is written only as a destination (R185 to R187, D6, log
entry 9). -/
def Obligations.BitwiseResults : Prop :=
  ∀ x y s,
    (∃ t, exec (.ldReg x y) s = .next t ∧ t.reg x = s.reg y ∧ t.pc = s.pc + 2 ∧ OnlyRegs (· = x) s t) ∧
    (∃ t, exec (.orReg x y) s = .next t ∧ t.pc = s.pc + 2 ∧ OnlyRegs (· = x) s t ∧
      ∀ b, (t.reg x).getLsbD b = ((s.reg x).getLsbD b || (s.reg y).getLsbD b)) ∧
    (∃ t, exec (.andReg x y) s = .next t ∧ t.pc = s.pc + 2 ∧ OnlyRegs (· = x) s t ∧
      ∀ b, (t.reg x).getLsbD b = ((s.reg x).getLsbD b && (s.reg y).getLsbD b)) ∧
    (∃ t, exec (.xorReg x y) s = .next t ∧ t.pc = s.pc + 2 ∧ OnlyRegs (· = x) s t ∧
      ∀ b, (t.reg x).getLsbD b = ((s.reg x).getLsbD b ^^ (s.reg y).getLsbD b))

/-- ADD Vx, Vy: the sum modulo 256, and VF 1 exactly when it is above 255; with x = 0xF the flag remains (R188; R183 by D5,
log entry 8). -/
def Obligations.AddWithCarry : Prop :=
  ∀ x y s, ∃ t, exec (.addReg x y) s = .next t ∧ t.pc = s.pc + 2 ∧ OnlyRegs (fun k => k = x ∨ k = 0xF) s t ∧
    (x ≠ 0xF → (t.reg x).toNat = ((s.reg x).toNat + (s.reg y).toNat) % 256) ∧
    (255 < (s.reg x).toNat + (s.reg y).toNat → t.reg 0xF = 1) ∧
    ((s.reg x).toNat + (s.reg y).toNat ≤ 255 → t.reg 0xF = 0)

/-- SUB Vx, Vy: the difference modulo 256, and VF 1 exactly when there is no borrow; with x = 0xF the flag remains (R189;
R183 by D5, log entry 8). -/
def Obligations.SubtractWithNotBorrow : Prop :=
  ∀ x y s, ∃ t, exec (.subReg x y) s = .next t ∧ t.pc = s.pc + 2 ∧ OnlyRegs (fun k => k = x ∨ k = 0xF) s t ∧
    (x ≠ 0xF → (t.reg x).toNat = (256 + (s.reg x).toNat - (s.reg y).toNat) % 256) ∧
    ((s.reg y).toNat ≤ (s.reg x).toNat → t.reg 0xF = 1) ∧ ((s.reg x).toNat < (s.reg y).toNat → t.reg 0xF = 0)

/-- SUBN Vx, Vy: V[y] − V[x], and VF 1 exactly when there is no borrow; with x = 0xF the flag remains (R191; R183 by D5,
log entry 8). -/
def Obligations.ReverseSubtractWithNotBorrow : Prop :=
  ∀ x y s, ∃ t, exec (.subnReg x y) s = .next t ∧ t.pc = s.pc + 2 ∧ OnlyRegs (fun k => k = x ∨ k = 0xF) s t ∧
    (x ≠ 0xF → (t.reg x).toNat = (256 + (s.reg y).toNat - (s.reg x).toNat) % 256) ∧
    ((s.reg x).toNat ≤ (s.reg y).toNat → t.reg 0xF = 1) ∧ ((s.reg y).toNat < (s.reg x).toNat → t.reg 0xF = 0)

/-- SHR and SHL shift V[x] by one, VF is the bit shifted out, y has no effect; with x = 0xF the flag remains (R190, R192;
D4 and D5, log entries 7 and 8). -/
def Obligations.ShiftsWithBitOut : Prop :=
  ∀ x y s,
    (∃ t, exec (.shr x y) s = .next t ∧ t.pc = s.pc + 2 ∧ OnlyRegs (fun k => k = x ∨ k = 0xF) s t ∧
      (x ≠ 0xF → (t.reg x).toNat = (s.reg x).toNat / 2) ∧ (t.reg 0xF).toNat = (s.reg x).toNat % 2) ∧
    (∃ t, exec (.shl x y) s = .next t ∧ t.pc = s.pc + 2 ∧ OnlyRegs (fun k => k = x ∨ k = 0xF) s t ∧
      (x ≠ 0xF → (t.reg x).toNat = 2 * (s.reg x).toNat % 256) ∧ (t.reg 0xF).toNat = (s.reg x).toNat / 128)

/-- RND: the step's random byte AND the immediate, bit by bit, for every value of the byte (R193). -/
def Obligations.RandomAndImmediate : Prop :=
  ∀ x kk s,
    (∃ t, exec (.rnd x kk) s = .next t ∧ t.pc = s.pc + 2 ∧ OnlyRegs (· = x) s t ∧
      ∀ b, (t.reg x).getLsbD b = (s.random.getLsbD b && kk.getLsbD b)) ∧
    (Runs s (.rnd x kk) → ∃ t, step s = .next t ∧ t.reg x = s.nextInput.random &&& kk)

/-! ## Index register and memory transfers (43_index_memory) -/

/-- LD I, nnn and LD F, Vx, the latter of the whole byte with no mask (R210, R212). -/
def Obligations.IndexLoads : Prop :=
  (∀ nnn s, ∃ t, exec (.ldI nnn) s = .next t ∧ t.i.toNat = nnn.toNat ∧ t.pc = s.pc + 2 ∧ OnlyIndex s t) ∧
  ∀ x s, ∃ t, exec (.ldF x) s = .next t ∧ t.i.toNat = (s.reg x).toNat * 5 ∧ t.pc = s.pc + 2 ∧ OnlyIndex s t

/-- ADD I, Vx wraps at 16 bits and writes no flag (R211, D8, log entry 9). -/
def Obligations.IndexAddWraps : Prop :=
  ∀ x s, ∃ t, exec (.addI x) s = .next t ∧ t.i.toNat = (s.i.toNat + (s.reg x).toNat) % 65536 ∧
    t.pc = s.pc + 2 ∧ OnlyIndex s t

/-- LD B, Vx stores the three decimal digits at I, I+1, I+2, or faults with the first address out of range and stores
nothing (R214, R215). -/
def Obligations.BcdStoresDigits : Prop :=
  ∀ x s, s.mem.wf = true →
    (s.i.toNat + 2 ≤ 0xFFF → ∃ t, exec (.ldB x) s = .next t ∧
      (readByte t.mem s.i.toNat).toNat = (s.reg x).toNat / 100 ∧
      (readByte t.mem (s.i.toNat + 1)).toNat = (s.reg x).toNat / 10 % 10 ∧
      (readByte t.mem (s.i.toNat + 2)).toNat = (s.reg x).toNat % 10 ∧
      t.pc = s.pc + 2 ∧ OnlyStored s.i.toNat 3 s t) ∧
    (0xFFF < s.i.toNat + 2 → exec (.ldB x) s = .fault (.memoryOutOfBounds (max s.i.toNat 0x1000) .write) ∧
      (Runs s (.ldB x) → SameMemory s s.afterStep))

/-- LD [I], Vx stores V0..Vx at I..I+x and leaves I, or faults and stores nothing (R216; I kept by D7, log entry 10). -/
def Obligations.StoreRegistersAtIndex : Prop :=
  ∀ (x : RegIx) s, s.mem.wf = true →
    (s.i.toNat + x.val ≤ 0xFFF → ∃ t, exec (.storeRegs x) s = .next t ∧
      (∀ j : RegIx, j.val ≤ x.val → readByte t.mem (s.i.toNat + j.val) = s.reg j) ∧
      t.pc = s.pc + 2 ∧ OnlyStored s.i.toNat (x.val + 1) s t) ∧
    (0xFFF < s.i.toNat + x.val → exec (.storeRegs x) s = .fault (.memoryOutOfBounds (max s.i.toNat 0x1000) .write) ∧
      (Runs s (.storeRegs x) → SameMemory s s.afterStep))

/-- LD Vx, [I] loads V0..Vx from I..I+x, leaves I and the registers above x, or faults and loads nothing (R217; I kept by
D7, log entry 10). -/
def Obligations.LoadRegistersFromIndex : Prop :=
  ∀ (x : RegIx) s,
    (s.i.toNat + x.val ≤ 0xFFF → ∃ t, exec (.loadRegs x) s = .next t ∧
      (∀ j : RegIx, j.val ≤ x.val → t.reg j = readByte s.mem (s.i.toNat + j.val)) ∧
      t.pc = s.pc + 2 ∧ OnlyRegs (fun k => k.val ≤ x.val) s t) ∧
    (0xFFF < s.i.toNat + x.val → exec (.loadRegs x) s = .fault (.memoryOutOfBounds (max s.i.toNat 0x1000) .read) ∧
      (Runs s (.loadRegs x) → SameRegsBut (fun _ => False) s s.afterStep))

/-- Fx55 then Fx65 with the same I and x, mem[I..I+x] not written between, give V0..Vx their values from before the store,
whatever the registers and the rest of memory were changed to (R218). -/
def Obligations.StoreThenLoadRoundTrip : Prop :=
  ∀ (x : RegIx) s t u, s.mem.wf = true → exec (.storeRegs x) s = .next t → u.i = s.i →
    (∀ j ≤ x.val, readByte u.mem (s.i.toNat + j) = readByte t.mem (s.i.toNat + j)) →
    ∃ r, exec (.loadRegs x) u = .next r ∧ ∀ j : RegIx, j.val ≤ x.val → r.reg j = s.reg j

/-- A stored byte is fetched as written (R84, R342): the fetch at I + j reads the word of V[j] and V[j+1] that Fx55 stored
there, and the fetches at I and I + 1 read the words of the digits that Fx33 stored. -/
def Obligations.StoredWordIsFetched : Prop :=
  ∀ (x : RegIx) s, s.mem.wf = true →
    (s.i.toNat + x.val ≤ 0xFFF → ∃ t, exec (.storeRegs x) s = .next t ∧
      ∀ j k : RegIx, k.val = j.val + 1 → k.val ≤ x.val →
        ∃ w, fetch (t.setPc (s.i + BitVec.ofNat 16 j.val)) = .ok w ∧
          w.toNat = 256 * (s.reg j).toNat + (s.reg k).toNat) ∧
    (s.i.toNat + 2 ≤ 0xFFF → ∃ t w u, exec (.ldB x) s = .next t ∧
      fetch (t.setPc s.i) = .ok w ∧ fetch (t.setPc (s.i + 1)) = .ok u ∧
      w.toNat = 256 * ((s.reg x).toNat / 100) + (s.reg x).toNat / 10 % 10 ∧
      u.toNat = 256 * ((s.reg x).toNat / 10 % 10) + (s.reg x).toNat % 10)

/-! ## Framebuffer (44_display) -/

/-- CLS turns every pixel off and sets `dirty`; VF is kept (R240). -/
def Obligations.ClearScreen : Prop :=
  ∀ s, ∃ t, exec .cls s = .next t ∧ (∀ px py, pixel t.fb px py = false) ∧ t.dirty = true ∧ t.pc = s.pc + 2 ∧
    OnlyScreen (fun _ => False) s t

/-- DRW inverts just the pixels under the sprite's set bits, wrapping on both axes, and VF says whether one of them was on;
`n` = 0 draws nothing; out of range it faults and draws nothing (R241 to R244; D9 and D10, log entries 11 and 12). -/
def Obligations.DrawXorsSprite : Prop :=
  ∀ x y n s, n ≤ 15 →
    ((n = 0 ∨ s.i.toNat + n ≤ 0x1000) → ∃ t, exec (.drw x y n) s = .next t ∧
      (∀ px py, (Covers s (s.reg x) (s.reg y) n px py → pixel t.fb px py = !pixel s.fb px py) ∧
        (¬ Covers s (s.reg x) (s.reg y) n px py → pixel t.fb px py = pixel s.fb px py)) ∧
      ((∃ px py, Covers s (s.reg x) (s.reg y) n px py ∧ pixel s.fb px py = true) → t.reg 0xF = 1) ∧
      (¬ (∃ px py, Covers s (s.reg x) (s.reg y) n px py ∧ pixel s.fb px py = true) → t.reg 0xF = 0) ∧
      t.dirty = true ∧ t.pc = s.pc + 2 ∧ OnlyScreen (· = 0xF) s t) ∧
    (n ≠ 0 → 0x1000 < s.i.toNat + n →
      exec (.drw x y n) s = .fault (.memoryOutOfBounds (max s.i.toNat 0x1000) .read) ∧
      (Runs s (.drw x y n) → SameScreen s.arrive s.afterStep ∧ SameRegsBut (fun _ => False) s s.afterStep))

/-- The same sprite drawn twice at the same coordinates gives the framebuffer back, and the second draw sets VF = 1 exactly
when the first turned a pixel on (R246). -/
def Obligations.DrawTwiceRestores : Prop :=
  ∀ x y n s t, n ≤ 15 → exec (.drw x y n) s = .next t → t.reg x = s.reg x → t.reg y = s.reg y →
    ∃ u, exec (.drw x y n) t = .next u ∧ (∀ px py, pixel u.fb px py = pixel s.fb px py) ∧
      (u.reg 0xF = 1 ↔ ∃ px py, pixel s.fb px py = false ∧ pixel t.fb px py = true)

/-! ## Keys and timers (45_input_timers) -/

/-- SKP and SKNP test the key V[x] names and skip; a V[x] above 0x0F names none and faults (R280, R281, R292; D12, log entry
14). -/
def Obligations.KeySkips : Prop :=
  ∀ x s,
    ((s.reg x).toNat ≤ 0x0F →
      (∃ t, exec (.skp x) s = .next t ∧ OnlyPc s t ∧
        t.pc = (if s.keys.getLsbD (s.reg x).toNat = true then s.pc + 4 else s.pc + 2)) ∧
      (∃ t, exec (.sknp x) s = .next t ∧ OnlyPc s t ∧
        t.pc = (if s.keys.getLsbD (s.reg x).toNat = true then s.pc + 2 else s.pc + 4))) ∧
    (0x0F < (s.reg x).toNat → exec (.skp x) s = .fault (.keyIndexOutOfRange (s.reg x)) ∧
      exec (.sknp x) s = .fault (.keyIndexOutOfRange (s.reg x)))

/-- LD Vx, K: with a key pressed the least one goes to V[x] in this step; with none the engine enters AwaitingKey(x) and pc
stays (R283; D11, log entry 13). -/
def Obligations.KeyWait : Prop :=
  ∀ x s,
    (∀ k < 16, s.keys.getLsbD k = true → (∀ j < k, s.keys.getLsbD j = false) →
      ∃ t, exec (.ldVxK x) s = .next t ∧ (t.reg x).toNat = k ∧ t.pc = s.pc + 2 ∧ OnlyRegs (· = x) s t) ∧
    ((∀ k < 16, s.keys.getLsbD k = false) →
      ∃ t, exec (.ldVxK x) s = .next t ∧ t.mode = .awaitingKey x ∧ t.pc = s.pc ∧ t.fault = s.fault ∧
        SameRegsBut (fun _ => False) s t ∧ t.i = s.i ∧ SameStack s t ∧ SameTimers s t ∧ SameScreen s t ∧
        SameMemory s t ∧ SameOutside s t)

/-- LD Vx, DT reads DT; LD DT, Vx and LD ST, Vx write their timer, and `sound_on` follows ST (R282, R284, R285). -/
def Obligations.TimerMoves : Prop :=
  ∀ x s,
    (∃ t, exec (.ldVxDt x) s = .next t ∧ t.reg x = s.dt ∧ t.pc = s.pc + 2 ∧ OnlyRegs (· = x) s t) ∧
    (∃ t, exec (.ldDtVx x) s = .next t ∧ t.dt = s.reg x ∧ t.st = s.st ∧ t.pc = s.pc + 2 ∧ OnlyTimers s t) ∧
    (∃ t, exec (.ldStVx x) s = .next t ∧ t.st = s.reg x ∧ t.dt = s.dt ∧ t.pc = s.pc + 2 ∧ OnlyTimers s t ∧
      (t.soundOn = true ↔ s.reg x ≠ 0))

/-- The driver's ticks take one off their own timer and are clamped at 0 (R290, R291). -/
def Obligations.TicksClampAtZero : Prop :=
  ∀ s : State,
    (s.tickDelay.dt.toNat = s.dt.toNat - 1 ∧ s.tickDelay.st = s.st ∧ s.tickDelay.pc = s.pc ∧ OnlyTimers s s.tickDelay) ∧
    (s.tickSound.st.toNat = s.st.toNat - 1 ∧ s.tickSound.dt = s.dt ∧ s.tickSound.pc = s.pc ∧ OnlyTimers s s.tickSound)

/-- `take_dirty` returns the flag and clears it, and changes nothing else; `sound_on` is ST ≠ 0 (10_state R59, R60). -/
def Obligations.TakeDirtyAndSoundOn : Prop :=
  ∀ s : State,
    s.takeDirty.1 = s.dirty ∧ s.takeDirty.2.dirty = false ∧ s.takeDirty.2.pc = s.pc ∧
    (∀ px py, pixel s.takeDirty.2.fb px py = pixel s.fb px py) ∧ SameTimers s s.takeDirty.2 ∧
    OnlyScreen (fun _ => False) s s.takeDirty.2 ∧ (s.soundOn = true ↔ s.st ≠ 0)

/-- What a program reads back from DT: between the Fx15 and the step that reads, any number of ticks may have come (R341;
the model carries that number in the step's input, log entry 1). -/
def Obligations.TimerReadBackAfterTicks : Prop :=
  ∀ x y s t, exec (.ldDtVx x) s = .next t → Runs t (.ldVxDt y) →
    ∃ u, step t = .next u ∧ (u.reg y).toNat = (s.reg x).toNat - t.nextInput.delayTicks

/-! ## Faults (60_exceptions) -/

/-- Once a fault is recorded there is no step, and the record never changes (R140, R300; the step's answer is the model's
choice, log entry 17). -/
def Obligations.NoStepAfterFault : Prop :=
  ∀ s f, s.fault = some f → step s = .fault f ∧ s.afterStep = s ∧ s.report = .noStep

/-- Faults are precise: a faulting step records the fault and leaves every other part of the state, and the record stays
(R300, R301; D14, log entry 16). -/
def Obligations.FaultsArePreciseAndSticky : Prop :=
  ∀ s f, s.fault = none → step s = .fault f →
    s.report = .fault f ∧ s.afterStep.fault = some f ∧ s.afterStep.pc = s.pc ∧ s.afterStep.mode = s.mode ∧
    SameRegsBut (fun _ => False) s s.afterStep ∧ s.afterStep.i = s.i ∧ SameStack s s.afterStep ∧
    SameTimers s.arrive s.afterStep ∧ SameScreen s.arrive s.afterStep ∧ SameMemory s s.afterStep ∧
    s.afterStep.diagnostics = s.diagnostics ∧ s.afterStep.afterStep = s.afterStep

/-- The only events that raise a fault, each with its info, the fetch first (R302, R308; D12, D13, D14). -/
def Obligations.OnlyTheseEventsFault : Prop :=
  ∀ s f, s.fault = none → step s = .fault f → s.mode = .running ∧
    ((0xFFE < s.pc.toNat ∧ f = .memoryOutOfBounds (max s.pc.toNat 0x1000) .fetch) ∨
     ∃ i, Runs s i ∧
      ((∃ nnn, i = .call nnn ∧ 16 ≤ s.stack.length ∧ f = .stackOverflow s.pc) ∨
       (i = .ret ∧ s.stack = [] ∧ f = .stackUnderflow s.pc) ∨
       (∃ x y n, i = .drw x y n ∧ n ≠ 0 ∧ 0x1000 < s.i.toNat + n ∧
          f = .memoryOutOfBounds (max s.i.toNat 0x1000) .read) ∨
       (∃ x, i = .ldB x ∧ 0xFFF < s.i.toNat + 2 ∧ f = .memoryOutOfBounds (max s.i.toNat 0x1000) .write) ∨
       (∃ x : RegIx, i = .storeRegs x ∧ 0xFFF < s.i.toNat + x.val ∧
          f = .memoryOutOfBounds (max s.i.toNat 0x1000) .write) ∨
       (∃ x : RegIx, i = .loadRegs x ∧ 0xFFF < s.i.toNat + x.val ∧
          f = .memoryOutOfBounds (max s.i.toNat 0x1000) .read) ∨
       (∃ x, (i = .skp x ∨ i = .sknp x) ∧ 0x0F < (s.reg x).toNat ∧ f = .keyIndexOutOfRange (s.reg x))))

/-- No step is refused: every word has a meaning, an instruction's or the unknown opcode's (30_encoding R112, R113). -/
def Obligations.NoStepIsRefused : Prop := ∀ s r, step s ≠ .refused r

/-! ## Whole-machine rules -/

/-- The invariant of the machine is kept by every step (10_state R36, R37, R45, R46; 40_engine R139). -/
def Obligations.StepKeepsInvariant : Prop := ∀ s t, Invariant s → step s = .next t → Invariant t

/-- … and by every action the environment can take, a faulting step among them (10_state R55). -/
def Obligations.ActionKeepsInvariant : Prop := ∀ s a, Invariant s → Invariant (s.act a)

/-- … and it holds after reset, and after reset and load of any font and any image the loader takes (10_state R49,
70_reset_and_hazards R330). -/
def Obligations.ResetHasInvariant : Prop :=
  Invariant State.reset ∧
  ∀ (fontBytes image : List Byte) s, fontBytes.length = 80 → State.boot fontBytes image = some s → Invariant s

/-- Fx0A with no key pressed enters AwaitingKey, a step with a key pressed leaves it, and nothing else changes `mode`
(10_state R43). -/
def Obligations.OnlyKeyWaitChangesMode : Prop :=
  (∀ s t, step s = .next t → t.mode ≠ s.mode →
    (∃ x, Runs s (.ldVxK x) ∧ (∀ k < 16, s.nextInput.keys.getLsbD k = false) ∧ t.mode = .awaitingKey x) ∨
    (∃ x k, s.mode = .awaitingKey x ∧ k < 16 ∧ s.nextInput.keys.getLsbD k = true ∧ t.mode = .running)) ∧
  (∀ s x, Runs s (.ldVxK x) → (∀ k < 16, s.nextInput.keys.getLsbD k = false) →
    ∃ t, step s = .next t ∧ t.mode = .awaitingKey x) ∧
  (∀ s x k, s.fault = none → s.mode = .awaitingKey x → k < 16 → s.nextInput.keys.getLsbD k = true →
    ∃ t, step s = .next t ∧ t.mode = .running)

/-- VF changes only by its six side-effect writers, or as a named or loaded destination register (10_state R32, R33). -/
def Obligations.FlagRegisterWriters : Prop :=
  ∀ i s t, exec i s = .next t → t.reg 0xF ≠ s.reg 0xF →
    (∃ x y, i = .addReg x y ∨ i = .subReg x y ∨ i = .shr x y ∨ i = .subnReg x y ∨ i = .shl x y) ∨
    (∃ x y n, i = .drw x y n) ∨
    (∃ kk, i = .ldImm 0xF kk ∨ i = .addImm 0xF kk ∨ i = .rnd 0xF kk) ∨
    (∃ y, i = .ldReg 0xF y ∨ i = .orReg 0xF y ∨ i = .andReg 0xF y ∨ i = .xorReg 0xF y) ∨
    i = .ldVxDt 0xF ∨ i = .ldVxK 0xF ∨ i = .loadRegs 0xF

/-- Only CALL and RET change the stack (10_state R37, R38). -/
def Obligations.StackWriters : Prop :=
  ∀ i s t, exec i s = .next t → t.stack ≠ s.stack → i = .ret ∨ ∃ nnn, i = .call nnn

/-- Only Annn, Fx1E and Fx29 change I (10_state R34). -/
def Obligations.IndexWriters : Prop :=
  ∀ i s t, exec i s = .next t → t.i ≠ s.i → (∃ nnn, i = .ldI nnn) ∨ ∃ x, i = .addI x ∨ i = .ldF x

/-- Only Fx15 changes DT and only Fx18 changes ST: no instruction ticks a timer (10_state R39, R40). -/
def Obligations.TimerWriters : Prop :=
  ∀ i s t, exec i s = .next t →
    (t.dt ≠ s.dt → ∃ x, i = .ldDtVx x) ∧ (t.st ≠ s.st → ∃ x, i = .ldStVx x)

/-- Only Fx33 and Fx55 change memory (20_memory R74). -/
def Obligations.MemoryWriters : Prop :=
  ∀ i s t, exec i s = .next t → ¬ SameMemory s t → ∃ x, i = .ldB x ∨ i = .storeRegs x

/-- Only CLS and DRW change a pixel or `dirty`, which no instruction clears (10_state R41, R42; 44_display R247). -/
def Obligations.ScreenWriters : Prop :=
  ∀ i s t, exec i s = .next t → ¬ SameScreen s t → (i = .cls ∨ ∃ x y n, i = .drw x y n) ∧ t.dirty = true

/-- At the idle point a step changes nothing but what the driver does, so the engine stays there (70_reset_and_hazards
R345, the spec's definition D20, log entry 28). -/
def Obligations.IdlePointStays : Prop :=
  ∀ s, Idle s → step s = .next s.arrive ∧ Idle s.arrive

/-! ## The opcode map, row by row (30_encoding) -/

/-- Every row of the opcode map with its operands at every value: the fields stand over the fixed bits where the row's
format has them (R101, R102, R105, R116; opcode values by D1, log entry 5). -/
def Obligations.EncodingByRow : Prop :=
  ∀ (nnn : BitVec 12) (x y : RegIx) (kk : Byte) (n : Nat), n ≤ 15 →
    (encode .cls).toNat = 0x00E0 ∧ (encode .ret).toNat = 0x00EE ∧
    (encode (.jp nnn)).toNat = 0x1000 + nnn.toNat ∧ (encode (.call nnn)).toNat = 0x2000 + nnn.toNat ∧
    (encode (.seImm x kk)).toNat = 0x3000 + 256 * x.val + kk.toNat ∧
    (encode (.sneImm x kk)).toNat = 0x4000 + 256 * x.val + kk.toNat ∧
    (encode (.seReg x y)).toNat = 0x5000 + 256 * x.val + 16 * y.val ∧
    (encode (.ldImm x kk)).toNat = 0x6000 + 256 * x.val + kk.toNat ∧
    (encode (.addImm x kk)).toNat = 0x7000 + 256 * x.val + kk.toNat ∧
    (encode (.ldReg x y)).toNat = 0x8000 + 256 * x.val + 16 * y.val ∧
    (encode (.orReg x y)).toNat = 0x8001 + 256 * x.val + 16 * y.val ∧
    (encode (.andReg x y)).toNat = 0x8002 + 256 * x.val + 16 * y.val ∧
    (encode (.xorReg x y)).toNat = 0x8003 + 256 * x.val + 16 * y.val ∧
    (encode (.addReg x y)).toNat = 0x8004 + 256 * x.val + 16 * y.val ∧
    (encode (.subReg x y)).toNat = 0x8005 + 256 * x.val + 16 * y.val ∧
    (encode (.shr x y)).toNat = 0x8006 + 256 * x.val + 16 * y.val ∧
    (encode (.subnReg x y)).toNat = 0x8007 + 256 * x.val + 16 * y.val ∧
    (encode (.shl x y)).toNat = 0x800E + 256 * x.val + 16 * y.val ∧
    (encode (.sneReg x y)).toNat = 0x9000 + 256 * x.val + 16 * y.val ∧
    (encode (.ldI nnn)).toNat = 0xA000 + nnn.toNat ∧ (encode (.jpV0 nnn)).toNat = 0xB000 + nnn.toNat ∧
    (encode (.rnd x kk)).toNat = 0xC000 + 256 * x.val + kk.toNat ∧
    (encode (.drw x y n)).toNat = 0xD000 + 256 * x.val + 16 * y.val + n ∧
    (encode (.skp x)).toNat = 0xE09E + 256 * x.val ∧ (encode (.sknp x)).toNat = 0xE0A1 + 256 * x.val ∧
    (encode (.ldVxDt x)).toNat = 0xF007 + 256 * x.val ∧ (encode (.ldVxK x)).toNat = 0xF00A + 256 * x.val ∧
    (encode (.ldDtVx x)).toNat = 0xF015 + 256 * x.val ∧ (encode (.ldStVx x)).toNat = 0xF018 + 256 * x.val ∧
    (encode (.addI x)).toNat = 0xF01E + 256 * x.val ∧ (encode (.ldF x)).toNat = 0xF029 + 256 * x.val ∧
    (encode (.ldB x)).toNat = 0xF033 + 256 * x.val ∧ (encode (.storeRegs x)).toNat = 0xF055 + 256 * x.val ∧
    (encode (.loadRegs x)).toNat = 0xF065 + 256 * x.val
end

