-- ==== Sys2Proof/Laws/Decode.lean ====
section
/-! SUPPORT. The fields of an encoded word (30_encoding R101, R116), and two words compared by their fields. -/
namespace Sys2Proof

@[simp] theorem fieldFamily_formNnn (f : BitVec 4) (nnn : BitVec 12) : fieldFamily (formNnn f nnn) = f :=
  BitVec.extractLsb'_append_eq_left

@[simp] theorem fieldNnn_formNnn (f : BitVec 4) (nnn : BitVec 12) : fieldNnn (formNnn f nnn) = nnn :=
  BitVec.extractLsb'_append_eq_right

@[simp] theorem fieldFamily_formXkk (f : BitVec 4) (x : RegIx) (kk : Byte) : fieldFamily (formXkk f x kk) = f :=
  BitVec.extractLsb'_append_eq_left

@[simp] theorem fieldFamily_formXyn (f : BitVec 4) (x y : RegIx) (n : BitVec 4) : fieldFamily (formXyn f x y n) = f :=
  BitVec.extractLsb'_append_eq_left

@[simp] theorem fieldX_formXkk (f : BitVec 4) (x : RegIx) (kk : Byte) : fieldX (formXkk f x kk) = x := by
  have : (formXkk f x kk).extractLsb' 8 4 = selBits x := by
    rw [formXkk, BitVec.extractLsb'_append_eq_of_add_le (by decide)]; exact BitVec.extractLsb'_append_eq_left
  rw [fieldX, this]; rfl

@[simp] theorem fieldKk_formXkk (f : BitVec 4) (x : RegIx) (kk : Byte) : fieldKk (formXkk f x kk) = kk := by
  rw [fieldKk, formXkk, BitVec.extractLsb'_append_eq_of_add_le (by decide)]; exact BitVec.extractLsb'_append_eq_right

/-- Format XYN is format XKK with y and n in the low byte. -/
theorem formXyn_eq (f : BitVec 4) (x y : RegIx) (n : BitVec 4) :
    formXyn f x y n = formXkk f x (selBits y ++ n : BitVec 8) := rfl

@[simp] theorem fieldX_formXyn (f : BitVec 4) (x y : RegIx) (n : BitVec 4) : fieldX (formXyn f x y n) = x := by
  rw [formXyn_eq, fieldX_formXkk]

@[simp] theorem fieldY_formXyn (f : BitVec 4) (x y : RegIx) (n : BitVec 4) : fieldY (formXyn f x y n) = y := by
  have : (formXyn f x y n).extractLsb' 4 4 = selBits y := by
    rw [formXyn, BitVec.extractLsb'_append_eq_of_add_le (by decide),
      BitVec.extractLsb'_append_eq_of_add_le (by decide)]; exact BitVec.extractLsb'_append_eq_left
  rw [fieldY, this]; rfl

@[simp] theorem fieldN_formXyn (f : BitVec 4) (x y : RegIx) (n : BitVec 4) : fieldN (formXyn f x y n) = n := by
  rw [fieldN, formXyn, BitVec.extractLsb'_append_eq_of_add_le (by decide),
    BitVec.extractLsb'_append_eq_of_add_le (by decide)]; exact BitVec.extractLsb'_append_eq_right

/-- A word is its family and its address field. -/
theorem formNnn_fields (w : Word) : formNnn (fieldFamily w) (fieldNnn w) = w := by
  apply BitVec.eq_of_getLsbD_eq
  intro i hi
  simp only [formNnn, fieldFamily, fieldNnn, BitVec.getLsbD_append, BitVec.getLsbD_extractLsb']
  by_cases h : i < 12
  · simp [h]
  · have : i - 12 < 4 := by omega
    simp [h, this, show 12 + (i - 12) = i by omega]

/-- A word is its family, its x and its low byte. -/
theorem formXkk_fields (w : Word) : formXkk (fieldFamily w) (fieldX w) (fieldKk w) = w := by
  apply BitVec.eq_of_getLsbD_eq
  intro i hi
  simp only [formXkk, selBits, fieldFamily, fieldX, fieldKk, BitVec.ofFin_toFin, BitVec.getLsbD_append,
    BitVec.getLsbD_extractLsb']
  by_cases h : i < 8
  · simp [h, show i < 12 by omega]
  · by_cases h2 : i < 12
    · simp [h, h2, show i - 8 < 4 by omega, show 8 + (i - 8) = i by omega]
    · simp [h2, show i - 12 < 4 by omega, show 12 + (i - 12) = i by omega]

/-- A word is its family, its x, its y and its n. -/
theorem formXyn_fields (w : Word) : formXyn (fieldFamily w) (fieldX w) (fieldY w) (fieldN w) = w := by
  have : (selBits (fieldY w) ++ fieldN w : BitVec 8) = fieldKk w := by
    apply BitVec.eq_of_getLsbD_eq
    intro i hi
    simp only [selBits, fieldY, fieldN, fieldKk, BitVec.ofFin_toFin, BitVec.getLsbD_append,
      BitVec.getLsbD_extractLsb']
    by_cases h : i < 4
    · simp [h, hi]
    · simp [h, hi, show i - 4 < 4 by omega, show 4 + (i - 4) = i by omega]
  rw [formXyn_eq, this, formXkk_fields]

/-- A word's two bytes compose it (20_memory R76). -/
theorem composeWord_wordBytes (w : Word) : composeWord (w.extractLsb' 8 8) (w.extractLsb' 0 8) = w := by
  apply BitVec.eq_of_getLsbD_eq
  intro i hi
  simp only [composeWord, BitVec.getLsbD_append, BitVec.getLsbD_extractLsb']
  by_cases h : i < 8
  · simp [h]
  · simp [h, show i - 8 < 8 by omega, show 8 + (i - 8) = i by omega]

/-- Two bytes decode as the word they compose. -/
theorem decodeBytes_pair {hi lo : Byte} {i : Instr} :
    decodeBytes [hi, lo] = .ok (i, []) ↔ decodeWord (composeWord hi lo) = .instr i := by
  rw [decodeBytes]
  cases decodeWord (composeWord hi lo) <;> simp

/-! The encoded word as a number: each field over the fixed bits. -/

theorem formNnn_toNat (f : BitVec 4) (nnn : BitVec 12) : (formNnn f nnn).toNat = 4096 * f.toNat + nnn.toNat := by
  rw [formNnn, BitVec.toNat_append, ← Nat.shiftLeft_add_eq_or_of_lt nnn.isLt, Nat.shiftLeft_eq]; omega

theorem formXkk_toNat (f : BitVec 4) (x : RegIx) (kk : Byte) :
    (formXkk f x kk).toNat = 4096 * f.toNat + 256 * x.val + kk.toNat := by
  have h := formNnn_toNat f (selBits x ++ kk : BitVec 12)
  rw [BitVec.toNat_append, ← Nat.shiftLeft_add_eq_or_of_lt kk.isLt, Nat.shiftLeft_eq] at h
  rw [show formXkk f x kk = formNnn f (selBits x ++ kk : BitVec 12) from rfl, h, show (selBits x).toNat = x.val from rfl]; omega

theorem formXyn_toNat (f : BitVec 4) (x y : RegIx) (n : BitVec 4) :
    (formXyn f x y n).toNat = 4096 * f.toNat + 256 * x.val + 16 * y.val + n.toNat := by
  have h := formXkk_toNat f x (selBits y ++ n : BitVec 8)
  rw [BitVec.toNat_append, ← Nat.shiftLeft_add_eq_or_of_lt n.isLt, Nat.shiftLeft_eq] at h
  rw [show formXyn f x y n = formXkk f x (selBits y ++ n : BitVec 8) from rfl, h, show (selBits y).toNat = y.val from rfl]; omega

end Sys2Proof
end

