-- ==== Sys2Proof/Laws/State.lean ====
section
/-! SUPPORT. One lemma per field per update of the state, so that no proof unfolds a record update. -/
namespace Sys2Proof.Machine

variable (s : State)

/-! `setReg`. -/

@[simp] theorem setReg_v (x : RegIx) (b : Byte) : (s.setReg x b).v = s.v.set x b := rfl
@[simp] theorem setReg_i (x : RegIx) (b : Byte) : (s.setReg x b).i = s.i := rfl
@[simp] theorem setReg_pc (x : RegIx) (b : Byte) : (s.setReg x b).pc = s.pc := rfl
@[simp] theorem setReg_stack (x : RegIx) (b : Byte) : (s.setReg x b).stack = s.stack := rfl
@[simp] theorem setReg_dt (x : RegIx) (b : Byte) : (s.setReg x b).dt = s.dt := rfl
@[simp] theorem setReg_st (x : RegIx) (b : Byte) : (s.setReg x b).st = s.st := rfl
@[simp] theorem setReg_fb (x : RegIx) (b : Byte) : (s.setReg x b).fb = s.fb := rfl
@[simp] theorem setReg_dirty (x : RegIx) (b : Byte) : (s.setReg x b).dirty = s.dirty := rfl
@[simp] theorem setReg_mode (x : RegIx) (b : Byte) : (s.setReg x b).mode = s.mode := rfl
@[simp] theorem setReg_fault (x : RegIx) (b : Byte) : (s.setReg x b).fault = s.fault := rfl
@[simp] theorem setReg_mem (x : RegIx) (b : Byte) : (s.setReg x b).mem = s.mem := rfl
@[simp] theorem setReg_keys (x : RegIx) (b : Byte) : (s.setReg x b).keys = s.keys := rfl
@[simp] theorem setReg_random (x : RegIx) (b : Byte) : (s.setReg x b).random = s.random := rfl
@[simp] theorem setReg_inputs (x : RegIx) (b : Byte) : (s.setReg x b).inputs = s.inputs := rfl
@[simp] theorem setReg_inputCount (x : RegIx) (b : Byte) : (s.setReg x b).inputCount = s.inputCount := rfl
@[simp] theorem setReg_diagnostics (x : RegIx) (b : Byte) : (s.setReg x b).diagnostics = s.diagnostics := rfl
@[simp] theorem setReg_key (x : RegIx) (b : Byte) (k : Nat) : (s.setReg x b).key k = s.key k := rfl
@[simp] theorem setReg_leastKey (x : RegIx) (b : Byte) : (s.setReg x b).leastKey = s.leastKey := rfl

/-! `setV`. -/

@[simp] theorem setV_v (w : Vector Byte 16) : (s.setV w).v = w := rfl
@[simp] theorem setV_i (w : Vector Byte 16) : (s.setV w).i = s.i := rfl
@[simp] theorem setV_pc (w : Vector Byte 16) : (s.setV w).pc = s.pc := rfl
@[simp] theorem setV_stack (w : Vector Byte 16) : (s.setV w).stack = s.stack := rfl
@[simp] theorem setV_dt (w : Vector Byte 16) : (s.setV w).dt = s.dt := rfl
@[simp] theorem setV_st (w : Vector Byte 16) : (s.setV w).st = s.st := rfl
@[simp] theorem setV_fb (w : Vector Byte 16) : (s.setV w).fb = s.fb := rfl
@[simp] theorem setV_dirty (w : Vector Byte 16) : (s.setV w).dirty = s.dirty := rfl
@[simp] theorem setV_mode (w : Vector Byte 16) : (s.setV w).mode = s.mode := rfl
@[simp] theorem setV_fault (w : Vector Byte 16) : (s.setV w).fault = s.fault := rfl
@[simp] theorem setV_mem (w : Vector Byte 16) : (s.setV w).mem = s.mem := rfl
@[simp] theorem setV_keys (w : Vector Byte 16) : (s.setV w).keys = s.keys := rfl
@[simp] theorem setV_random (w : Vector Byte 16) : (s.setV w).random = s.random := rfl
@[simp] theorem setV_inputs (w : Vector Byte 16) : (s.setV w).inputs = s.inputs := rfl
@[simp] theorem setV_inputCount (w : Vector Byte 16) : (s.setV w).inputCount = s.inputCount := rfl
@[simp] theorem setV_diagnostics (w : Vector Byte 16) : (s.setV w).diagnostics = s.diagnostics := rfl
@[simp] theorem setV_key (w : Vector Byte 16) (k : Nat) : (s.setV w).key k = s.key k := rfl
@[simp] theorem setV_leastKey (w : Vector Byte 16) : (s.setV w).leastKey = s.leastKey := rfl

/-! `setI`. -/

@[simp] theorem setI_v (w : Word) : (s.setI w).v = s.v := rfl
@[simp] theorem setI_i (w : Word) : (s.setI w).i = w := rfl
@[simp] theorem setI_pc (w : Word) : (s.setI w).pc = s.pc := rfl
@[simp] theorem setI_stack (w : Word) : (s.setI w).stack = s.stack := rfl
@[simp] theorem setI_dt (w : Word) : (s.setI w).dt = s.dt := rfl
@[simp] theorem setI_st (w : Word) : (s.setI w).st = s.st := rfl
@[simp] theorem setI_fb (w : Word) : (s.setI w).fb = s.fb := rfl
@[simp] theorem setI_dirty (w : Word) : (s.setI w).dirty = s.dirty := rfl
@[simp] theorem setI_mode (w : Word) : (s.setI w).mode = s.mode := rfl
@[simp] theorem setI_fault (w : Word) : (s.setI w).fault = s.fault := rfl
@[simp] theorem setI_mem (w : Word) : (s.setI w).mem = s.mem := rfl
@[simp] theorem setI_keys (w : Word) : (s.setI w).keys = s.keys := rfl
@[simp] theorem setI_random (w : Word) : (s.setI w).random = s.random := rfl
@[simp] theorem setI_inputs (w : Word) : (s.setI w).inputs = s.inputs := rfl
@[simp] theorem setI_inputCount (w : Word) : (s.setI w).inputCount = s.inputCount := rfl
@[simp] theorem setI_diagnostics (w : Word) : (s.setI w).diagnostics = s.diagnostics := rfl
@[simp] theorem setI_reg (w : Word) (k : RegIx) : (s.setI w).reg k = s.reg k := rfl
@[simp] theorem setI_key (w : Word) (k : Nat) : (s.setI w).key k = s.key k := rfl
@[simp] theorem setI_leastKey (w : Word) : (s.setI w).leastKey = s.leastKey := rfl

/-! `setDt`. -/

@[simp] theorem setDt_v (b : Byte) : (s.setDt b).v = s.v := rfl
@[simp] theorem setDt_i (b : Byte) : (s.setDt b).i = s.i := rfl
@[simp] theorem setDt_pc (b : Byte) : (s.setDt b).pc = s.pc := rfl
@[simp] theorem setDt_stack (b : Byte) : (s.setDt b).stack = s.stack := rfl
@[simp] theorem setDt_dt (b : Byte) : (s.setDt b).dt = b := rfl
@[simp] theorem setDt_st (b : Byte) : (s.setDt b).st = s.st := rfl
@[simp] theorem setDt_fb (b : Byte) : (s.setDt b).fb = s.fb := rfl
@[simp] theorem setDt_dirty (b : Byte) : (s.setDt b).dirty = s.dirty := rfl
@[simp] theorem setDt_mode (b : Byte) : (s.setDt b).mode = s.mode := rfl
@[simp] theorem setDt_fault (b : Byte) : (s.setDt b).fault = s.fault := rfl
@[simp] theorem setDt_mem (b : Byte) : (s.setDt b).mem = s.mem := rfl
@[simp] theorem setDt_keys (b : Byte) : (s.setDt b).keys = s.keys := rfl
@[simp] theorem setDt_random (b : Byte) : (s.setDt b).random = s.random := rfl
@[simp] theorem setDt_inputs (b : Byte) : (s.setDt b).inputs = s.inputs := rfl
@[simp] theorem setDt_inputCount (b : Byte) : (s.setDt b).inputCount = s.inputCount := rfl
@[simp] theorem setDt_diagnostics (b : Byte) : (s.setDt b).diagnostics = s.diagnostics := rfl
@[simp] theorem setDt_reg (b : Byte) (k : RegIx) : (s.setDt b).reg k = s.reg k := rfl
@[simp] theorem setDt_key (b : Byte) (k : Nat) : (s.setDt b).key k = s.key k := rfl
@[simp] theorem setDt_leastKey (b : Byte) : (s.setDt b).leastKey = s.leastKey := rfl

/-! `setSt`. -/

@[simp] theorem setSt_v (b : Byte) : (s.setSt b).v = s.v := rfl
@[simp] theorem setSt_i (b : Byte) : (s.setSt b).i = s.i := rfl
@[simp] theorem setSt_pc (b : Byte) : (s.setSt b).pc = s.pc := rfl
@[simp] theorem setSt_stack (b : Byte) : (s.setSt b).stack = s.stack := rfl
@[simp] theorem setSt_dt (b : Byte) : (s.setSt b).dt = s.dt := rfl
@[simp] theorem setSt_st (b : Byte) : (s.setSt b).st = b := rfl
@[simp] theorem setSt_fb (b : Byte) : (s.setSt b).fb = s.fb := rfl
@[simp] theorem setSt_dirty (b : Byte) : (s.setSt b).dirty = s.dirty := rfl
@[simp] theorem setSt_mode (b : Byte) : (s.setSt b).mode = s.mode := rfl
@[simp] theorem setSt_fault (b : Byte) : (s.setSt b).fault = s.fault := rfl
@[simp] theorem setSt_mem (b : Byte) : (s.setSt b).mem = s.mem := rfl
@[simp] theorem setSt_keys (b : Byte) : (s.setSt b).keys = s.keys := rfl
@[simp] theorem setSt_random (b : Byte) : (s.setSt b).random = s.random := rfl
@[simp] theorem setSt_inputs (b : Byte) : (s.setSt b).inputs = s.inputs := rfl
@[simp] theorem setSt_inputCount (b : Byte) : (s.setSt b).inputCount = s.inputCount := rfl
@[simp] theorem setSt_diagnostics (b : Byte) : (s.setSt b).diagnostics = s.diagnostics := rfl
@[simp] theorem setSt_reg (b : Byte) (k : RegIx) : (s.setSt b).reg k = s.reg k := rfl
@[simp] theorem setSt_key (b : Byte) (k : Nat) : (s.setSt b).key k = s.key k := rfl
@[simp] theorem setSt_leastKey (b : Byte) : (s.setSt b).leastKey = s.leastKey := rfl

/-! `setPc`. -/

@[simp] theorem setPc_v (w : Word) : (s.setPc w).v = s.v := rfl
@[simp] theorem setPc_i (w : Word) : (s.setPc w).i = s.i := rfl
@[simp] theorem setPc_pc (w : Word) : (s.setPc w).pc = w := rfl
@[simp] theorem setPc_stack (w : Word) : (s.setPc w).stack = s.stack := rfl
@[simp] theorem setPc_dt (w : Word) : (s.setPc w).dt = s.dt := rfl
@[simp] theorem setPc_st (w : Word) : (s.setPc w).st = s.st := rfl
@[simp] theorem setPc_fb (w : Word) : (s.setPc w).fb = s.fb := rfl
@[simp] theorem setPc_dirty (w : Word) : (s.setPc w).dirty = s.dirty := rfl
@[simp] theorem setPc_mode (w : Word) : (s.setPc w).mode = s.mode := rfl
@[simp] theorem setPc_fault (w : Word) : (s.setPc w).fault = s.fault := rfl
@[simp] theorem setPc_mem (w : Word) : (s.setPc w).mem = s.mem := rfl
@[simp] theorem setPc_keys (w : Word) : (s.setPc w).keys = s.keys := rfl
@[simp] theorem setPc_random (w : Word) : (s.setPc w).random = s.random := rfl
@[simp] theorem setPc_inputs (w : Word) : (s.setPc w).inputs = s.inputs := rfl
@[simp] theorem setPc_inputCount (w : Word) : (s.setPc w).inputCount = s.inputCount := rfl
@[simp] theorem setPc_diagnostics (w : Word) : (s.setPc w).diagnostics = s.diagnostics := rfl
@[simp] theorem setPc_reg (w : Word) (k : RegIx) : (s.setPc w).reg k = s.reg k := rfl
@[simp] theorem setPc_key (w : Word) (k : Nat) : (s.setPc w).key k = s.key k := rfl
@[simp] theorem setPc_leastKey (w : Word) : (s.setPc w).leastKey = s.leastKey := rfl

/-! `advance`. -/

@[simp] theorem advance_v : (s.advance).v = s.v := rfl
@[simp] theorem advance_i : (s.advance).i = s.i := rfl
@[simp] theorem advance_pc : (s.advance).pc = s.pc + 2 := rfl
@[simp] theorem advance_stack : (s.advance).stack = s.stack := rfl
@[simp] theorem advance_dt : (s.advance).dt = s.dt := rfl
@[simp] theorem advance_st : (s.advance).st = s.st := rfl
@[simp] theorem advance_fb : (s.advance).fb = s.fb := rfl
@[simp] theorem advance_dirty : (s.advance).dirty = s.dirty := rfl
@[simp] theorem advance_mode : (s.advance).mode = s.mode := rfl
@[simp] theorem advance_fault : (s.advance).fault = s.fault := rfl
@[simp] theorem advance_mem : (s.advance).mem = s.mem := rfl
@[simp] theorem advance_keys : (s.advance).keys = s.keys := rfl
@[simp] theorem advance_random : (s.advance).random = s.random := rfl
@[simp] theorem advance_inputs : (s.advance).inputs = s.inputs := rfl
@[simp] theorem advance_inputCount : (s.advance).inputCount = s.inputCount := rfl
@[simp] theorem advance_diagnostics : (s.advance).diagnostics = s.diagnostics := rfl
@[simp] theorem advance_reg (k : RegIx) : (s.advance).reg k = s.reg k := rfl
@[simp] theorem advance_key (k : Nat) : (s.advance).key k = s.key k := rfl
@[simp] theorem advance_leastKey : (s.advance).leastKey = s.leastKey := rfl

/-! `skipIf`. -/

@[simp] theorem skipIf_v (c : Bool) : (s.skipIf c).v = s.v := rfl
@[simp] theorem skipIf_i (c : Bool) : (s.skipIf c).i = s.i := rfl
@[simp] theorem skipIf_pc (c : Bool) : (s.skipIf c).pc = if c then s.pc + 4 else s.pc + 2 := rfl
@[simp] theorem skipIf_stack (c : Bool) : (s.skipIf c).stack = s.stack := rfl
@[simp] theorem skipIf_dt (c : Bool) : (s.skipIf c).dt = s.dt := rfl
@[simp] theorem skipIf_st (c : Bool) : (s.skipIf c).st = s.st := rfl
@[simp] theorem skipIf_fb (c : Bool) : (s.skipIf c).fb = s.fb := rfl
@[simp] theorem skipIf_dirty (c : Bool) : (s.skipIf c).dirty = s.dirty := rfl
@[simp] theorem skipIf_mode (c : Bool) : (s.skipIf c).mode = s.mode := rfl
@[simp] theorem skipIf_fault (c : Bool) : (s.skipIf c).fault = s.fault := rfl
@[simp] theorem skipIf_mem (c : Bool) : (s.skipIf c).mem = s.mem := rfl
@[simp] theorem skipIf_keys (c : Bool) : (s.skipIf c).keys = s.keys := rfl
@[simp] theorem skipIf_random (c : Bool) : (s.skipIf c).random = s.random := rfl
@[simp] theorem skipIf_inputs (c : Bool) : (s.skipIf c).inputs = s.inputs := rfl
@[simp] theorem skipIf_inputCount (c : Bool) : (s.skipIf c).inputCount = s.inputCount := rfl
@[simp] theorem skipIf_diagnostics (c : Bool) : (s.skipIf c).diagnostics = s.diagnostics := rfl
@[simp] theorem skipIf_reg (c : Bool) (k : RegIx) : (s.skipIf c).reg k = s.reg k := rfl
@[simp] theorem skipIf_key (c : Bool) (k : Nat) : (s.skipIf c).key k = s.key k := rfl
@[simp] theorem skipIf_leastKey (c : Bool) : (s.skipIf c).leastKey = s.leastKey := rfl

/-! `setStack`. -/

@[simp] theorem setStack_v (l : List Word) : (s.setStack l).v = s.v := rfl
@[simp] theorem setStack_i (l : List Word) : (s.setStack l).i = s.i := rfl
@[simp] theorem setStack_pc (l : List Word) : (s.setStack l).pc = s.pc := rfl
@[simp] theorem setStack_stack (l : List Word) : (s.setStack l).stack = l := rfl
@[simp] theorem setStack_dt (l : List Word) : (s.setStack l).dt = s.dt := rfl
@[simp] theorem setStack_st (l : List Word) : (s.setStack l).st = s.st := rfl
@[simp] theorem setStack_fb (l : List Word) : (s.setStack l).fb = s.fb := rfl
@[simp] theorem setStack_dirty (l : List Word) : (s.setStack l).dirty = s.dirty := rfl
@[simp] theorem setStack_mode (l : List Word) : (s.setStack l).mode = s.mode := rfl
@[simp] theorem setStack_fault (l : List Word) : (s.setStack l).fault = s.fault := rfl
@[simp] theorem setStack_mem (l : List Word) : (s.setStack l).mem = s.mem := rfl
@[simp] theorem setStack_keys (l : List Word) : (s.setStack l).keys = s.keys := rfl
@[simp] theorem setStack_random (l : List Word) : (s.setStack l).random = s.random := rfl
@[simp] theorem setStack_inputs (l : List Word) : (s.setStack l).inputs = s.inputs := rfl
@[simp] theorem setStack_inputCount (l : List Word) : (s.setStack l).inputCount = s.inputCount := rfl
@[simp] theorem setStack_diagnostics (l : List Word) : (s.setStack l).diagnostics = s.diagnostics := rfl
@[simp] theorem setStack_reg (l : List Word) (k : RegIx) : (s.setStack l).reg k = s.reg k := rfl
@[simp] theorem setStack_key (l : List Word) (k : Nat) : (s.setStack l).key k = s.key k := rfl
@[simp] theorem setStack_leastKey (l : List Word) : (s.setStack l).leastKey = s.leastKey := rfl

/-! `setMode`. -/

@[simp] theorem setMode_v (m : Mode) : (s.setMode m).v = s.v := rfl
@[simp] theorem setMode_i (m : Mode) : (s.setMode m).i = s.i := rfl
@[simp] theorem setMode_pc (m : Mode) : (s.setMode m).pc = s.pc := rfl
@[simp] theorem setMode_stack (m : Mode) : (s.setMode m).stack = s.stack := rfl
@[simp] theorem setMode_dt (m : Mode) : (s.setMode m).dt = s.dt := rfl
@[simp] theorem setMode_st (m : Mode) : (s.setMode m).st = s.st := rfl
@[simp] theorem setMode_fb (m : Mode) : (s.setMode m).fb = s.fb := rfl
@[simp] theorem setMode_dirty (m : Mode) : (s.setMode m).dirty = s.dirty := rfl
@[simp] theorem setMode_mode (m : Mode) : (s.setMode m).mode = m := rfl
@[simp] theorem setMode_fault (m : Mode) : (s.setMode m).fault = s.fault := rfl
@[simp] theorem setMode_mem (m : Mode) : (s.setMode m).mem = s.mem := rfl
@[simp] theorem setMode_keys (m : Mode) : (s.setMode m).keys = s.keys := rfl
@[simp] theorem setMode_random (m : Mode) : (s.setMode m).random = s.random := rfl
@[simp] theorem setMode_inputs (m : Mode) : (s.setMode m).inputs = s.inputs := rfl
@[simp] theorem setMode_inputCount (m : Mode) : (s.setMode m).inputCount = s.inputCount := rfl
@[simp] theorem setMode_diagnostics (m : Mode) : (s.setMode m).diagnostics = s.diagnostics := rfl
@[simp] theorem setMode_reg (m : Mode) (k : RegIx) : (s.setMode m).reg k = s.reg k := rfl
@[simp] theorem setMode_key (m : Mode) (k : Nat) : (s.setMode m).key k = s.key k := rfl
@[simp] theorem setMode_leastKey (m : Mode) : (s.setMode m).leastKey = s.leastKey := rfl

/-! `setMem`. -/

@[simp] theorem setMem_v (m : Memory) : (s.setMem m).v = s.v := rfl
@[simp] theorem setMem_i (m : Memory) : (s.setMem m).i = s.i := rfl
@[simp] theorem setMem_pc (m : Memory) : (s.setMem m).pc = s.pc := rfl
@[simp] theorem setMem_stack (m : Memory) : (s.setMem m).stack = s.stack := rfl
@[simp] theorem setMem_dt (m : Memory) : (s.setMem m).dt = s.dt := rfl
@[simp] theorem setMem_st (m : Memory) : (s.setMem m).st = s.st := rfl
@[simp] theorem setMem_fb (m : Memory) : (s.setMem m).fb = s.fb := rfl
@[simp] theorem setMem_dirty (m : Memory) : (s.setMem m).dirty = s.dirty := rfl
@[simp] theorem setMem_mode (m : Memory) : (s.setMem m).mode = s.mode := rfl
@[simp] theorem setMem_fault (m : Memory) : (s.setMem m).fault = s.fault := rfl
@[simp] theorem setMem_mem (m : Memory) : (s.setMem m).mem = m := rfl
@[simp] theorem setMem_keys (m : Memory) : (s.setMem m).keys = s.keys := rfl
@[simp] theorem setMem_random (m : Memory) : (s.setMem m).random = s.random := rfl
@[simp] theorem setMem_inputs (m : Memory) : (s.setMem m).inputs = s.inputs := rfl
@[simp] theorem setMem_inputCount (m : Memory) : (s.setMem m).inputCount = s.inputCount := rfl
@[simp] theorem setMem_diagnostics (m : Memory) : (s.setMem m).diagnostics = s.diagnostics := rfl
@[simp] theorem setMem_reg (m : Memory) (k : RegIx) : (s.setMem m).reg k = s.reg k := rfl
@[simp] theorem setMem_key (m : Memory) (k : Nat) : (s.setMem m).key k = s.key k := rfl
@[simp] theorem setMem_leastKey (m : Memory) : (s.setMem m).leastKey = s.leastKey := rfl

/-! `recordFault`. -/

@[simp] theorem recordFault_v (f : Fault) : (s.recordFault f).v = s.v := rfl
@[simp] theorem recordFault_i (f : Fault) : (s.recordFault f).i = s.i := rfl
@[simp] theorem recordFault_pc (f : Fault) : (s.recordFault f).pc = s.pc := rfl
@[simp] theorem recordFault_stack (f : Fault) : (s.recordFault f).stack = s.stack := rfl
@[simp] theorem recordFault_dt (f : Fault) : (s.recordFault f).dt = s.dt := rfl
@[simp] theorem recordFault_st (f : Fault) : (s.recordFault f).st = s.st := rfl
@[simp] theorem recordFault_fb (f : Fault) : (s.recordFault f).fb = s.fb := rfl
@[simp] theorem recordFault_dirty (f : Fault) : (s.recordFault f).dirty = s.dirty := rfl
@[simp] theorem recordFault_mode (f : Fault) : (s.recordFault f).mode = s.mode := rfl
@[simp] theorem recordFault_fault (f : Fault) : (s.recordFault f).fault = some f := rfl
@[simp] theorem recordFault_mem (f : Fault) : (s.recordFault f).mem = s.mem := rfl
@[simp] theorem recordFault_keys (f : Fault) : (s.recordFault f).keys = s.keys := rfl
@[simp] theorem recordFault_random (f : Fault) : (s.recordFault f).random = s.random := rfl
@[simp] theorem recordFault_inputs (f : Fault) : (s.recordFault f).inputs = s.inputs := rfl
@[simp] theorem recordFault_inputCount (f : Fault) : (s.recordFault f).inputCount = s.inputCount := rfl
@[simp] theorem recordFault_diagnostics (f : Fault) : (s.recordFault f).diagnostics = s.diagnostics := rfl
@[simp] theorem recordFault_reg (f : Fault) (k : RegIx) : (s.recordFault f).reg k = s.reg k := rfl
@[simp] theorem recordFault_key (f : Fault) (k : Nat) : (s.recordFault f).key k = s.key k := rfl
@[simp] theorem recordFault_leastKey (f : Fault) : (s.recordFault f).leastKey = s.leastKey := rfl

/-! `paint`. -/

@[simp] theorem paint_v (fb : Framebuffer) : (s.paint fb).v = s.v := rfl
@[simp] theorem paint_i (fb : Framebuffer) : (s.paint fb).i = s.i := rfl
@[simp] theorem paint_pc (fb : Framebuffer) : (s.paint fb).pc = s.pc := rfl
@[simp] theorem paint_stack (fb : Framebuffer) : (s.paint fb).stack = s.stack := rfl
@[simp] theorem paint_dt (fb : Framebuffer) : (s.paint fb).dt = s.dt := rfl
@[simp] theorem paint_st (fb : Framebuffer) : (s.paint fb).st = s.st := rfl
@[simp] theorem paint_fb (fb : Framebuffer) : (s.paint fb).fb = fb := rfl
@[simp] theorem paint_dirty (fb : Framebuffer) : (s.paint fb).dirty = true := rfl
@[simp] theorem paint_mode (fb : Framebuffer) : (s.paint fb).mode = s.mode := rfl
@[simp] theorem paint_fault (fb : Framebuffer) : (s.paint fb).fault = s.fault := rfl
@[simp] theorem paint_mem (fb : Framebuffer) : (s.paint fb).mem = s.mem := rfl
@[simp] theorem paint_keys (fb : Framebuffer) : (s.paint fb).keys = s.keys := rfl
@[simp] theorem paint_random (fb : Framebuffer) : (s.paint fb).random = s.random := rfl
@[simp] theorem paint_inputs (fb : Framebuffer) : (s.paint fb).inputs = s.inputs := rfl
@[simp] theorem paint_inputCount (fb : Framebuffer) : (s.paint fb).inputCount = s.inputCount := rfl
@[simp] theorem paint_diagnostics (fb : Framebuffer) : (s.paint fb).diagnostics = s.diagnostics := rfl
@[simp] theorem paint_reg (fb : Framebuffer) (k : RegIx) : (s.paint fb).reg k = s.reg k := rfl
@[simp] theorem paint_key (fb : Framebuffer) (k : Nat) : (s.paint fb).key k = s.key k := rfl
@[simp] theorem paint_leastKey (fb : Framebuffer) : (s.paint fb).leastKey = s.leastKey := rfl

/-! `emit`. -/

@[simp] theorem emit_v (d : Diagnostic) : (s.emit d).v = s.v := rfl
@[simp] theorem emit_i (d : Diagnostic) : (s.emit d).i = s.i := rfl
@[simp] theorem emit_pc (d : Diagnostic) : (s.emit d).pc = s.pc := rfl
@[simp] theorem emit_stack (d : Diagnostic) : (s.emit d).stack = s.stack := rfl
@[simp] theorem emit_dt (d : Diagnostic) : (s.emit d).dt = s.dt := rfl
@[simp] theorem emit_st (d : Diagnostic) : (s.emit d).st = s.st := rfl
@[simp] theorem emit_fb (d : Diagnostic) : (s.emit d).fb = s.fb := rfl
@[simp] theorem emit_dirty (d : Diagnostic) : (s.emit d).dirty = s.dirty := rfl
@[simp] theorem emit_mode (d : Diagnostic) : (s.emit d).mode = s.mode := rfl
@[simp] theorem emit_fault (d : Diagnostic) : (s.emit d).fault = s.fault := rfl
@[simp] theorem emit_mem (d : Diagnostic) : (s.emit d).mem = s.mem := rfl
@[simp] theorem emit_keys (d : Diagnostic) : (s.emit d).keys = s.keys := rfl
@[simp] theorem emit_random (d : Diagnostic) : (s.emit d).random = s.random := rfl
@[simp] theorem emit_inputs (d : Diagnostic) : (s.emit d).inputs = s.inputs := rfl
@[simp] theorem emit_inputCount (d : Diagnostic) : (s.emit d).inputCount = s.inputCount := rfl
@[simp] theorem emit_diagnostics (d : Diagnostic) : (s.emit d).diagnostics = d :: s.diagnostics := rfl
@[simp] theorem emit_reg (d : Diagnostic) (k : RegIx) : (s.emit d).reg k = s.reg k := rfl
@[simp] theorem emit_key (d : Diagnostic) (k : Nat) : (s.emit d).key k = s.key k := rfl
@[simp] theorem emit_leastKey (d : Diagnostic) : (s.emit d).leastKey = s.leastKey := rfl

/-! `arrive`. -/

@[simp] theorem arrive_v : (s.arrive).v = s.v := rfl
@[simp] theorem arrive_i : (s.arrive).i = s.i := rfl
@[simp] theorem arrive_pc : (s.arrive).pc = s.pc := rfl
@[simp] theorem arrive_stack : (s.arrive).stack = s.stack := rfl
@[simp] theorem arrive_dt : (s.arrive).dt = tickBy s.dt s.nextInput.delayTicks := rfl
@[simp] theorem arrive_st : (s.arrive).st = tickBy s.st s.nextInput.soundTicks := rfl
@[simp] theorem arrive_fb : (s.arrive).fb = s.fb := rfl
@[simp] theorem arrive_dirty : (s.arrive).dirty = (s.dirty && !s.nextInput.takesDirty) := rfl
@[simp] theorem arrive_mode : (s.arrive).mode = s.mode := rfl
@[simp] theorem arrive_fault : (s.arrive).fault = s.fault := rfl
@[simp] theorem arrive_mem : (s.arrive).mem = s.mem := rfl
@[simp] theorem arrive_keys : (s.arrive).keys = s.nextInput.keys := rfl
@[simp] theorem arrive_random : (s.arrive).random = s.nextInput.random := rfl
@[simp] theorem arrive_inputs : (s.arrive).inputs = s.inputs.tail := rfl
@[simp] theorem arrive_inputCount : (s.arrive).inputCount = s.inputCount + 1 := rfl
@[simp] theorem arrive_diagnostics : (s.arrive).diagnostics = s.diagnostics := rfl
@[simp] theorem arrive_reg (k : RegIx) : (s.arrive).reg k = s.reg k := rfl

end Sys2Proof.Machine
end

