-- ==== Sys2Proof/Laws/Env.lean ====
section
/-! SUPPORT. Ticks, and what the environment's arrival does to the state. -/
namespace Sys2Proof.Machine

/-- A tick takes one off, and is clamped at 0 (45_input_timers R290). -/
theorem tick_toNat (b : Byte) : (tick b).toNat = b.toNat - 1 := by
  unfold tick; split
  · next h => subst h; rfl
  · next h =>
    have : b.toNat ≠ 0 := fun e => h (BitVec.eq_of_toNat_eq e)
    rw [BitVec.toNat_sub]; have := b.isLt; simp; omega

theorem tickBy_toNat (b : Byte) (n : Nat) : (tickBy b n).toNat = b.toNat - n := by
  have := b.isLt
  simp [tickBy]; omega

@[simp] theorem tickBy_zero (b : Byte) : tickBy b 0 = b := by
  apply BitVec.eq_of_toNat_eq; simp [tickBy_toNat]

/-- `n + 1` ticks in one go are one tick after `n`. -/
theorem tickBy_succ (b : Byte) (n : Nat) : tickBy b (n + 1) = tick (tickBy b n) := by
  apply BitVec.eq_of_toNat_eq; simp only [tickBy_toNat, tick_toNat]; omega

/-- Ticks in one go are the driver's action repeated. -/
theorem tickBy_iterate (b : Byte) (n : Nat) : tickBy b n = tick^[n] b := by
  induction n with
  | zero => simp
  | succ n ih => rw [tickBy_succ, ih, Function.iterate_succ_apply']

/-- The entry at the head of `inputs` is the next step's input. -/
@[simp] theorem nextInput_cons (s : State) (e : StepInput) (l : List StepInput) :
    State.nextInput { s with inputs := e :: l } = e := rfl

end Sys2Proof.Machine
end

