-- ==== Sys2Proof/Laws/Framebuffer.lean ====
section
/-! SUPPORT. The framebuffer: a pixel after a toggle, after a list of toggles, and after a sprite, whose pixels are
distinct (44_display R244). -/
namespace Sys2Proof.Machine

@[simp] theorem pixel_blankFb (px : Fin 64) (py : Fin 32) : pixel blankFb px py = false := by
  simp [pixel, blankFb]

/-- A toggle inverts its pixel and no other. -/
theorem pixel_togglePixel (fb : Framebuffer) (qx px : Fin 64) (qy py : Fin 32) :
    pixel (togglePixel fb qx qy) px py = if px = qx ∧ py = qy then !pixel fb px py else pixel fb px py := by
  simp only [pixel, togglePixel, Fin.getElem_fin, Vector.getElem_set]
  by_cases hy : py = qy
  · subst hy
    by_cases hx : px = qx
    · subst hx; simp
    · have : ¬ (qx.val = px.val) := fun h => hx (Fin.ext h.symm)
      simp [hx, this]
  · have : ¬ (qy.val = py.val) := fun h => hy (Fin.ext h.symm)
    simp [hy, this]

/-- Toggling distinct pixels inverts just those; the flag says that one of them was on. -/
theorem togglePixels_spec : ∀ (ps : List (Fin 64 × Fin 32)) (fb : Framebuffer) (c : Bool), ps.Nodup →
    (∀ px py, pixel (togglePixels fb c ps).1 px py =
      if (px, py) ∈ ps then !pixel fb px py else pixel fb px py) ∧
    (togglePixels fb c ps).2 = (c || ps.any fun p => pixel fb p.1 p.2)
  | [], fb, c, _ => by simp [togglePixels]
  | p :: ps, fb, c, hn => by
    obtain ⟨hp, hn'⟩ := List.nodup_cons.1 hn
    obtain ⟨ih1, ih2⟩ := togglePixels_spec ps (togglePixel fb p.1 p.2) (c || pixel fb p.1 p.2) hn'
    refine ⟨fun px py => ?_, ?_⟩
    · rw [togglePixels, ih1]
      simp only [pixel_togglePixel, List.mem_cons]
      by_cases h : (px, py) = p
      · subst h; simp [hp]
      · have h' : ¬ (px = p.1 ∧ py = p.2) := fun e => h (Prod.ext e.1 e.2)
        simp [h, h']
    · rw [togglePixels, ih2, List.any_cons, Bool.or_assoc]
      have same : (ps.any fun q => pixel (togglePixel fb p.1 p.2) q.1 q.2) = ps.any fun q => pixel fb q.1 q.2 := by
        rw [Bool.eq_iff_iff, List.any_eq_true, List.any_eq_true]
        have each : ∀ q ∈ ps, pixel (togglePixel fb p.1 p.2) q.1 q.2 = pixel fb q.1 q.2 := by
          intro q hq
          rw [pixel_togglePixel, if_neg]
          rintro ⟨h1, h2⟩
          exact hp (Prod.ext h1 h2 ▸ hq)
        exact ⟨fun ⟨q, hq, e⟩ => ⟨q, hq, each q hq ▸ e⟩, fun ⟨q, hq, e⟩ => ⟨q, hq, (each q hq).symm ▸ e⟩⟩
      rw [same]

theorem mem_litColumns {row : Byte} {c : Nat} : c ∈ litColumns row ↔ c < 8 ∧ row.getLsbD (7 - c) = true := by
  simp [litColumns]

/-- The pixels of a sprite are those under a set bit of one of its rows. -/
theorem mem_spritePixels (xs ys : Byte) : ∀ (rows : List Byte) (j : Nat) (p : Fin 64 × Fin 32),
    p ∈ spritePixels xs ys j rows ↔
      ∃ (r : Nat) (h : r < rows.length) (c : Nat), c < 8 ∧ (rows[r]).getLsbD (7 - c) = true ∧
        p = wrapPoint xs ys c (j + r)
  | [], j, p => by simp [spritePixels]
  | row :: rows, j, p => by
    rw [spritePixels, List.mem_append, mem_spritePixels xs ys rows, List.mem_map]
    constructor
    · rintro (⟨c, hc, rfl⟩ | ⟨r, h, c, hc, hb, rfl⟩)
      · obtain ⟨h8, hb⟩ := mem_litColumns.1 hc
        exact ⟨0, by simp, c, h8, hb, rfl⟩
      · exact ⟨r + 1, by simpa using h, c, hc, by simpa using hb, by rw [Nat.add_right_comm, Nat.add_assoc]⟩
    · rintro ⟨r, h, c, hc, hb, rfl⟩
      cases r with
      | zero => exact .inl ⟨c, mem_litColumns.2 ⟨hc, hb⟩, rfl⟩
      | succ r =>
        exact .inr ⟨r, by simpa using h, c, hc, by simpa using hb, by rw [Nat.add_right_comm, Nat.add_assoc]⟩

/-- Columns up to 63 apart and rows up to 31 apart do not wrap onto each other (44_display R244). -/
theorem wrapPoint_inj {xs ys : Byte} {c c' j j' : Nat} (hc : c < 8) (hc' : c' < 8) (hj : j < 32) (hj' : j' < 32)
    (h : wrapPoint xs ys c j = wrapPoint xs ys c' j') : c = c' ∧ j = j' := by
  simp only [wrapPoint, Prod.mk.injEq, Fin.ext_iff, Fin.val_ofNat] at h
  omega

/-- The wrapped positions of one sprite of at most 32 rows are distinct (44_display R244). -/
theorem spritePixels_nodup (xs ys : Byte) : ∀ (rows : List Byte) (j : Nat), j + rows.length ≤ 32 →
    (spritePixels xs ys j rows).Nodup
  | [], _, _ => List.nodup_nil
  | row :: rows, j, h => by
    simp only [List.length_cons] at h
    rw [spritePixels, List.nodup_append]
    refine ⟨?_, spritePixels_nodup xs ys rows (j + 1) (by omega), ?_⟩
    · refine List.Nodup.map_on (fun c hc c' hc' e => ?_) ((List.nodup_range).filter _)
      exact (wrapPoint_inj (mem_litColumns.1 hc).1 (mem_litColumns.1 hc').1 (by omega) (by omega) e).1
    · rintro p hp q hq rfl
      obtain ⟨c, hc, rfl⟩ := List.mem_map.1 hp
      obtain ⟨r, hr, c', hc', -, e⟩ := (mem_spritePixels ..).1 hq
      have := (wrapPoint_inj (mem_litColumns.1 hc).1 hc' (by omega) (by omega) e).2
      omega

/-- Drawing inverts the pixels of the sprite, and reports whether one of them was on (44_display R243, R244). -/
theorem drawSprite_spec (fb : Framebuffer) (xs ys : Byte) (rows : List Byte) (h : rows.length ≤ 32) :
    (∀ px py, pixel (drawSprite fb xs ys rows).1 px py =
      if (px, py) ∈ spritePixels xs ys 0 rows then !pixel fb px py else pixel fb px py) ∧
    (drawSprite fb xs ys rows).2 = (spritePixels xs ys 0 rows).any fun p => pixel fb p.1 p.2 := by
  have := togglePixels_spec (spritePixels xs ys 0 rows) fb false (spritePixels_nodup xs ys rows 0 (by omega))
  simpa [drawSprite] using this

end Sys2Proof.Machine
end

