-- ==== Sys2Proof/Laws/Memory.lean ====
section
/-! SUPPORT. Memory: a read after a write, the canonical form kept by every memory operation, and what the bounds check
and a fetch answer. -/
namespace Sys2Proof.Machine

theorem memSize_eq : Config.memSize = 4096 := rfl

/-! The canonical form. -/

theorem wfFrom_nil (lo : Nat) : wfFrom lo [] = true := rfl

theorem wfFrom_cons (lo a : Nat) (b : Byte) (m : Memory) :
    wfFrom lo ((a, b) :: m) = true ↔
      (lo ≤ a ∧ a < 4096 ∧ b ≠ unlistedByte a) ∧ wfFrom (a + 1) m = true := by
  rw [wfFrom, memSize_eq]
  simp only [Bool.and_eq_true, decide_eq_true_eq, and_assoc]

/-- A list in canonical form from `lo` is in canonical form from every lower address. -/
theorem wfFrom_mono {lo lo' : Nat} (h : lo' ≤ lo) : ∀ {m : Memory}, wfFrom lo m = true → wfFrom lo' m = true
  | [], _ => rfl
  | (a, b) :: m, hm => by
    rw [wfFrom_cons] at hm ⊢
    exact ⟨⟨by omega, hm.1.2⟩, hm.2⟩

/-- An address below every listed one reads as its reset contents. -/
theorem readByte_below : ∀ {m : Memory} {lo a : Nat}, wfFrom lo m = true → a < lo → readByte m a = unlistedByte a
  | [], _, _, _, _ => rfl
  | (c, d) :: m, lo, a, hm, ha => by
    rw [wfFrom_cons] at hm
    rw [readByte, if_neg (by omega), readByte_below hm.2 (by omega)]

theorem writeByte_wfFrom : ∀ {m : Memory} {lo a : Nat} (b : Byte),
    wfFrom lo m = true → lo ≤ a → a < 4096 → wfFrom lo (writeByte m a b) = true
  | [], lo, a, b, _, hl, ha => by
    rw [writeByte]
    split
    · rfl
    · next hb => rw [wfFrom_cons]; exact ⟨⟨hl, ha, hb⟩, rfl⟩
  | (c, d) :: m, lo, a, b, hm, hl, ha => by
    have hc := (wfFrom_cons ..).1 hm
    rw [writeByte]
    by_cases h1 : a < c
    · rw [if_pos h1]
      split
      · exact hm
      · next hb =>
        rw [wfFrom_cons, wfFrom_cons]
        exact ⟨⟨hl, ha, hb⟩, ⟨by omega, hc.1.2⟩, hc.2⟩
    · rw [if_neg h1]
      by_cases h2 : a = c
      · rw [if_pos h2]
        subst h2
        split
        · exact wfFrom_mono (by omega) hc.2
        · next hb => rw [wfFrom_cons]; exact ⟨⟨hl, ha, hb⟩, hc.2⟩
      · rw [if_neg h2, wfFrom_cons]
        exact ⟨hc.1, writeByte_wfFrom b hc.2 (by omega) ha⟩

/-- Writing a byte that exists keeps the canonical form. -/
theorem writeByte_wf {m : Memory} {a : Nat} (b : Byte) (hm : m.wf = true) (ha : a < 4096) :
    Memory.wf (writeByte m a b) = true := writeByte_wfFrom b hm (Nat.zero_le a) ha

/-- Writing bytes that exist keeps the canonical form. -/
theorem writeBytes_wf : ∀ (bs : List Byte) {m : Memory} {a : Nat},
    m.wf = true → a + bs.length ≤ 4096 → Memory.wf (writeBytes m a bs) = true
  | [], _, _, hm, _ => hm
  | b :: bs, m, a, hm, ha => by
    simp only [List.length_cons] at ha
    exact writeBytes_wf bs (writeByte_wf b hm (by omega)) (by omega)

theorem reset_mem_wf : State.reset.mem.wf = true := rfl

/-! Reads after writes. -/

theorem readByte_writeByte_from : ∀ {m : Memory} {lo a : Nat} (b : Byte) (c : Nat), wfFrom lo m = true → lo ≤ a →
    readByte (writeByte m a b) c = if c = a then b else readByte m c
  | [], lo, a, b, c, _, _ => by
    rw [writeByte]
    by_cases hb : b = unlistedByte a
    · rw [if_pos hb]
      by_cases hc : c = a
      · rw [if_pos hc, hc, readByte, hb]
      · rw [if_neg hc]
    · rw [if_neg hb]; rfl
  | (e, d) :: m, lo, a, b, c, hm, hl => by
    have he := (wfFrom_cons ..).1 hm
    rw [writeByte]
    by_cases h1 : a < e
    · rw [if_pos h1]
      by_cases hb : b = unlistedByte a
      · rw [if_pos hb]
        by_cases hc : c = a
        · rw [if_pos hc, hc, readByte, if_neg (by omega), readByte_below he.2 (by omega), hb]
        · rw [if_neg hc]
      · rw [if_neg hb]; rfl
    · rw [if_neg h1]
      by_cases h2 : a = e
      · rw [if_pos h2]
        subst h2
        by_cases hb : b = unlistedByte a
        · rw [if_pos hb]
          by_cases hc : c = a
          · rw [if_pos hc, hc, readByte_below he.2 (by omega), hb]
          · rw [if_neg hc, readByte, if_neg hc]
        · rw [if_neg hb, readByte]
          by_cases hc : c = a
          · rw [if_pos hc, if_pos hc]
          · rw [if_neg hc, if_neg hc, readByte, if_neg hc]
      · rw [if_neg h2, readByte, readByte]
        by_cases hc : c = e
        · rw [if_pos hc, if_pos hc, if_neg (by omega)]
        · rw [if_neg hc, if_neg hc, readByte_writeByte_from b c he.2 (by omega)]

/-- Memory holds what was last written to it (20_memory R78), and a write leaves every other byte. -/
theorem readByte_writeByte {m : Memory} (hm : m.wf = true) (a c : Nat) (b : Byte) :
    readByte (writeByte m a b) c = if c = a then b else readByte m c :=
  readByte_writeByte_from b c hm (Nat.zero_le a)

/-- The bytes written read back in order, and every byte outside them is left. -/
theorem readByte_writeBytes : ∀ (bs : List Byte) {m : Memory} {a : Nat} (c : Nat), m.wf = true → a + bs.length ≤ 4096 →
    readByte (writeBytes m a bs) c = if h : a ≤ c ∧ c < a + bs.length then bs[c - a] else readByte m c
  | [], m, a, c, _, _ => by simp [writeBytes]
  | b :: bs, m, a, c, hm, ha => by
    simp only [List.length_cons] at ha
    rw [writeBytes, readByte_writeBytes bs c (writeByte_wf b hm (by omega)) (by omega)]
    by_cases h1 : a + 1 ≤ c ∧ c < a + 1 + bs.length
    · have h2 : a ≤ c ∧ c < a + (b :: bs).length := by simp only [List.length_cons]; omega
      rw [dif_pos h1, dif_pos h2, List.getElem_cons, dif_neg (by omega)]
      congr 1
    · rw [dif_neg h1, readByte_writeByte hm]
      by_cases h2 : c = a
      · subst h2; simp
      · have h3 : ¬ (a ≤ c ∧ c < a + (b :: bs).length) := by simp only [List.length_cons]; omega
        rw [if_neg h2, dif_neg h3]

@[simp] theorem readBytes_length (m : Memory) (n : Nat) : ∀ a, (readBytes m a n).length = n := by
  induction n with
  | zero => intro a; rfl
  | succ n ih => intro a; simp [readBytes, ih]

/-- The `j`-th byte read is the one at `a + j`. -/
theorem readBytes_getElem (m : Memory) (n : Nat) : ∀ (a j : Nat) (h : j < (readBytes m a n).length),
    (readBytes m a n)[j] = readByte m (a + j) := by
  induction n with
  | zero => intro a j h; simp at h
  | succ n ih =>
    intro a j h
    cases j with
    | zero => simp [readBytes]
    | succ j =>
      simp only [readBytes, List.getElem_cons_succ, ih]
      congr 1; omega

/-! The bounds check and the fetch. -/

/-- The check passes when no byte, or only bytes that exist, are touched (20_memory R72, R75). -/
theorem boundsFault_none {base len : Nat} {kind : AccessKind} :
    boundsFault base len kind = none ↔ len = 0 ∨ base + len ≤ 4096 := by
  rw [boundsFault, memSize_eq]; split <;> simp_all

/-- Otherwise it answers MemoryOutOfBounds with the first address out of range. -/
theorem boundsFault_some {base len : Nat} {kind : AccessKind} {f : Fault} :
    boundsFault base len kind = some f ↔
      (len ≠ 0 ∧ 4096 < base + len) ∧ f = .memoryOutOfBounds (max base 4096) kind := by
  rw [boundsFault, memSize_eq]
  split
  · simp; omega
  · simp [eq_comm]; omega

/-- A fetch answers the two bytes at pc when both exist, and otherwise the fault with the first that does not. -/
theorem fetch_eq (s : State) :
    fetch s = if s.pc.toNat + 2 ≤ 4096 then
        .ok (composeWord (readByte s.mem s.pc.toNat) (readByte s.mem (s.pc.toNat + 1)))
      else .error (.memoryOutOfBounds (max s.pc.toNat 4096) .fetch) := by
  rw [fetch, boundsFault, memSize_eq]
  simp only [OfNat.ofNat_ne_zero, false_or]
  by_cases h : s.pc.toNat + 2 ≤ 4096
  · rw [if_pos h, if_pos h]
  · rw [if_neg h, if_neg h]

/-- What passes a fetch lies at 0xFFE or below (10_state R36). -/
theorem fetch_ok_pc {s : State} {w : Word} (h : fetch s = .ok w) : s.pc.toNat + 2 ≤ 4096 := by
  rw [fetch_eq] at h
  split at h
  · assumption
  · cases h

end Sys2Proof.Machine
end

