-- ==== Sys2Proof/Laws/Registers.lean ====
section
/-! SUPPORT. What reading a register gives after each operation that writes registers. -/
namespace Sys2Proof.Machine

/-- A read after a write: the value written to that register, every other register as before. -/
theorem reg_setReg (s : State) (x k : RegIx) (b : Byte) :
    (s.setReg x b).reg k = if k = x then b else s.reg k := by
  simp only [State.reg, State.setReg, Fin.getElem_fin, Vector.getElem_set, Fin.ext_iff, eq_comm]

@[simp] theorem reg_setReg_self (s : State) (x : RegIx) (b : Byte) : (s.setReg x b).reg x = b := by
  simp [reg_setReg]

theorem reg_setReg_ne (s : State) {x k : RegIx} (b : Byte) (h : k ≠ x) : (s.setReg x b).reg k = s.reg k := by
  simp [reg_setReg, h]

/-- The order of 42_alu R183: VF holds the flag, V[x] the result unless it is VF. -/
theorem reg_setResultFlag (s : State) (x k : RegIx) (res fl : Byte) :
    (s.setResultFlag x res fl).reg k = if k = vf then fl else if k = x then res else s.reg k := by
  simp only [State.setResultFlag, reg_setReg]

/-- `setRegsFrom` replaces the registers its bytes reach and no other. -/
theorem getElem_setRegsFrom (bs : List Byte) :
    ∀ (v : Vector Byte 16) (j : Nat) (k : Nat) (hk : k < 16),
      (setRegsFrom v j bs)[k] = if h : j ≤ k ∧ k < j + bs.length then bs[k - j] else v[k] := by
  induction bs with
  | nil => intro v j k hk; simp [setRegsFrom]
  | cons b bs ih =>
    intro v j k hk
    rw [setRegsFrom, ih]
    by_cases h1 : j + 1 ≤ k ∧ k < j + 1 + bs.length
    · have h2 : j ≤ k ∧ k < j + (b :: bs).length := by simp only [List.length_cons]; omega
      rw [dif_pos h1, dif_pos h2, List.getElem_cons, dif_neg (by omega)]
      congr 1
    · rw [dif_neg h1]
      by_cases h2 : j = k
      · subst h2
        simp [hk]
      · have h3 : ¬ (j ≤ k ∧ k < j + (b :: bs).length) := by simp only [List.length_cons]; omega
        rw [dif_neg h3]
        split <;> simp [h2]

/-- The bytes LD [I], Vx stores: as many as registers V0..Vx (43_index_memory R216). -/
@[simp] theorem regsUpTo_length (s : State) (x : RegIx) : (regsUpTo s x).length = x.val + 1 := by
  simp [regsUpTo]

/-- The `j`-th of them is V[j]. -/
theorem regsUpTo_getElem (s : State) (x : RegIx) (j : Nat) (h : j < (regsUpTo s x).length) :
    (regsUpTo s x)[j] = s.reg ⟨j, by simp at h; omega⟩ := by
  simp [regsUpTo, State.reg]

end Sys2Proof.Machine
end

