-- ==== Sys2Proof/Laws/Meaning.lean ====
section
/-! SUPPORT. What each operation that several meanings share can do, said once: the key search, the key operand, the store
at I, and the forms that fault on a bound. -/
namespace Sys2Proof.Machine

/-- The search answers the least pressed key … -/
theorem leastKey_some {s : State} {k : Nat} :
    s.leastKey = some k ↔ k < 16 ∧ s.keys.getLsbD k = true ∧ ∀ j < k, s.keys.getLsbD j = false := by
  rw [State.leastKey, List.find?_range_eq_some]
  simp only [State.key, List.mem_range]
  constructor
  · rintro ⟨h1, h2, h3⟩
    exact ⟨h2, h1, fun j hj => by simpa using h3 j hj⟩
  · rintro ⟨h1, h2, h3⟩
    exact ⟨h2, h1, fun j hj => by simp [h3 j hj]⟩

/-- … and none when no key is pressed. -/
theorem leastKey_none {s : State} : s.leastKey = none ↔ ∀ k < 16, s.keys.getLsbD k = false := by
  simp [State.leastKey, State.key]

theorem keyIndexFault_none {a : Byte} : keyIndexFault a = none ↔ a.toNat ≤ 0x0F := by
  rw [keyIndexFault]; split <;> simp_all

theorem keyIndexFault_some {a : Byte} {f : Fault} :
    keyIndexFault a = some f ↔ 0x0F < a.toNat ∧ f = .keyIndexOutOfRange a := by
  rw [keyIndexFault]; split
  · simp; omega
  · simp only [Option.some.injEq, eq_comm (a := f), iff_and_self]; omega

/-- A skip on a key completes exactly when V[x] names a key. -/
theorem skipOnKey_eq (x : RegIx) (want : Bool) (s : State) :
    skipOnKey x want s = if (s.reg x).toNat ≤ 0x0F then .next (s.skipIf (s.key (s.reg x).toNat == want))
      else .fault (.keyIndexOutOfRange (s.reg x)) := by
  rw [skipOnKey, keyIndexFault]
  by_cases h : (s.reg x).toNat ≤ 0x0F
  · rw [if_pos h, if_pos h]
  · rw [if_neg h, if_neg h]; rfl

/-- A store at I completes exactly when every address exists. -/
theorem storeAtIndex_eq (bytes : List Byte) (s : State) (h0 : bytes.length ≠ 0) :
    storeAtIndex bytes s = if s.i.toNat + bytes.length ≤ 4096 then
        .next (s.setMem (writeBytes s.mem s.i.toNat bytes)).advance
      else .fault (.memoryOutOfBounds (max s.i.toNat 4096) .write) := by
  rw [storeAtIndex, boundsFault, memSize_eq, memBase]
  simp only [h0, false_or]
  by_cases h : s.i.toNat + bytes.length ≤ 4096
  · rw [if_pos h, if_pos h]
  · rw [if_neg h, if_neg h]; rfl

/-- A load completes exactly when every address exists. -/
theorem execLoadRegs_eq (x : RegIx) (s : State) :
    execLoadRegs x s = if s.i.toNat + (x.val + 1) ≤ 4096 then
        .next (s.setV (setRegsFrom s.v 0 (readBytes s.mem s.i.toNat (x.val + 1)))).advance
      else .fault (.memoryOutOfBounds (max s.i.toNat 4096) .read) := by
  rw [execLoadRegs, boundsFault, memSize_eq, memBase]
  simp only [Nat.add_one_ne_zero, false_or]
  by_cases h : s.i.toNat + (x.val + 1) ≤ 4096
  · rw [if_pos h, if_pos h]
  · rw [if_neg h, if_neg h]; rfl

/-- A draw completes exactly when it reads no byte, or only bytes that exist. -/
theorem execDrw_eq (x y : RegIx) (n : Nat) (s : State) :
    execDrw x y n s = if n = 0 ∨ s.i.toNat + n ≤ 4096 then
        .next ((s.paint (drawResult s x y n).1).setReg vf (collisionFlag (drawResult s x y n).2)).advance
      else .fault (.memoryOutOfBounds (max s.i.toNat 4096) .read) := by
  rw [execDrw, boundsFault, memSize_eq, memBase]
  by_cases h : n = 0 ∨ s.i.toNat + n ≤ 4096
  · rw [if_pos h, if_pos h]
  · rw [if_neg h, if_neg h]; rfl

/-- A call completes exactly when the stack has room. -/
theorem execCall_eq (nnn : BitVec 12) (s : State) :
    execCall nnn s = if s.stack.length < 16 then
        .next ((s.setStack (s.stack ++ [s.pc])).setPc (addrOperand nnn))
      else .fault (.stackOverflow s.pc) := rfl

/-- A return on a stack that holds an address pops the last one. -/
theorem execRet_append {s : State} {below : List Word} {u : Word} (h : s.stack = below ++ [u]) :
    execRet s = .next ((s.setStack below).setPc (u + 2)) := by
  rw [execRet, h]; simp

/-- A return on an empty stack faults. -/
theorem execRet_nil {s : State} (h : s.stack = []) : execRet s = .fault (.stackUnderflow s.pc) := by
  rw [execRet, h]; rfl

@[simp] theorem addrOperand_toNat (nnn : BitVec 12) : (addrOperand nnn).toNat = nnn.toNat := by
  have := nnn.isLt
  rw [addrOperand, BitVec.toNat_setWidth]; omega

@[simp] theorem zext16_toNat (b : Byte) : b.zext16.toNat = b.toNat := by
  have := b.isLt
  rw [Byte.zext16, BitVec.toNat_setWidth]; omega

/-- The pixels a sprite at I covers are those the draw toggles (44_display R241 to R243). -/
theorem mem_spritePixels_iff_covers (s : State) (xs ys : Byte) (n : Nat) (px : Fin 64) (py : Fin 32) :
    (px, py) ∈ spritePixels xs ys 0 (readBytes s.mem s.i.toNat n) ↔ Covers s xs ys n px py := by
  rw [mem_spritePixels]
  constructor
  · rintro ⟨r, h, c, hc, hb, e⟩
    rw [readBytes_getElem] at hb
    simp only [wrapPoint, Prod.mk.injEq, Fin.ext_iff, Fin.val_ofNat, Nat.zero_add] at e
    exact ⟨r, c, by simpa using h, hc, hb, e⟩
  · rintro ⟨r, c, h, hc, hb, ex, ey⟩
    refine ⟨r, by simpa using h, c, hc, by rw [readBytes_getElem]; exact hb, ?_⟩
    simp only [wrapPoint, Prod.mk.injEq, Fin.ext_iff, Fin.val_ofNat, Nat.zero_add]
    exact ⟨ex, ey⟩

/-! The endings that several meanings share. -/

/-- A result in V[x], pc + 2, every other register as before. -/
theorem reg_finishReg (s : State) (x k : RegIx) (b : Byte) :
    (s.finishReg x b).reg k = if k = x then b else s.reg k := reg_setReg s x k b

/-- A result in V[x] and then its flag in VF (42_alu R183), pc + 2. -/
theorem reg_finishFlag (s : State) (x k : RegIx) (res fl : Byte) :
    (s.finishFlag x res fl).reg k = if k = vf then fl else if k = x then res else s.reg k :=
  reg_setResultFlag s x k res fl

@[simp] theorem finishReg_pc (s : State) (x : RegIx) (b : Byte) : (s.finishReg x b).pc = s.pc + 2 := rfl

@[simp] theorem finishFlag_pc (s : State) (x : RegIx) (res fl : Byte) : (s.finishFlag x res fl).pc = s.pc + 2 := rfl

@[simp] theorem finishI_pc (s : State) (w : Word) : (s.finishI w).pc = s.pc + 2 := rfl

@[simp] theorem finishI_i (s : State) (w : Word) : (s.finishI w).i = w := rfl

/-- What the registers are after a load from memory (43_index_memory R217). -/
theorem reg_setV_setRegsFrom (s : State) (x j : RegIx) (a : Nat) :
    (s.setV (setRegsFrom s.v 0 (readBytes s.mem a (x.val + 1)))).reg j =
      if j.val ≤ x.val then readByte s.mem (a + j.val) else s.reg j := by
  show (setRegsFrom _ _ _)[j.val] = _
  rw [getElem_setRegsFrom]
  by_cases h : j.val ≤ x.val
  · rw [if_pos h, dif_pos (by simp; omega), readBytes_getElem]; simp
  · rw [if_neg h, dif_neg (by simp; omega)]; rfl

/-! The loaders and the placing of a word keep the canonical form. -/

theorem loadFont_wf {m : Memory} {bytes : List Byte} (hm : m.wf = true) (h : bytes.length ≤ 80) :
    Memory.wf (loadFont m bytes) = true := writeBytes_wf bytes hm (by simp only [Config.fontBase]; omega)

theorem loadProgram_wf {s t : State} {image : List Byte} (hm : s.mem.wf = true) (h : s.loadProgram image = some t) :
    t.mem.wf = true := by
  rw [State.loadProgram] at h
  split at h
  · next hl =>
    cases h
    refine writeBytes_wf image hm ?_
    simp only [Config.maxImage, Config.memSize, Config.progBase] at hl ⊢
    omega
  · cases h

theorem placeWord_wf {s : State} (w : Word) (hm : s.mem.wf = true) : (s.placeWord w).mem.wf = true := by
  show Memory.wf (if _ then _ else _) = true
  split
  · next h => exact writeBytes_wf _ hm (by simpa [wordBytes, memSize_eq] using h)
  · exact hm

end Sys2Proof.Machine
end

