-- ==== Sys2Proof/Laws/PerInstr.lean ====
section
/-! SUPPORT. Per instruction: an encoded word has the fixed bits of its row of spec/opcode_table.json (30_encoding R105,
R116), whatever its operands. -/
namespace Sys2Proof.Laws.RowPattern

/-- The row's mask: its fixed bits. -/
def rowMask : Instr → Word
  | .cls => 0xFFFF#16
  | .ret => 0xFFFF#16
  | .jp _ => 0xF000#16
  | .call _ => 0xF000#16
  | .seImm _ _ => 0xF000#16
  | .sneImm _ _ => 0xF000#16
  | .seReg _ _ => 0xF00F#16
  | .ldImm _ _ => 0xF000#16
  | .addImm _ _ => 0xF000#16
  | .ldReg _ _ => 0xF00F#16
  | .orReg _ _ => 0xF00F#16
  | .andReg _ _ => 0xF00F#16
  | .xorReg _ _ => 0xF00F#16
  | .addReg _ _ => 0xF00F#16
  | .subReg _ _ => 0xF00F#16
  | .shr _ _ => 0xF00F#16
  | .subnReg _ _ => 0xF00F#16
  | .shl _ _ => 0xF00F#16
  | .sneReg _ _ => 0xF00F#16
  | .ldI _ => 0xF000#16
  | .jpV0 _ => 0xF000#16
  | .rnd _ _ => 0xF000#16
  | .drw _ _ _ => 0xF000#16
  | .skp _ => 0xF0FF#16
  | .sknp _ => 0xF0FF#16
  | .ldVxDt _ => 0xF0FF#16
  | .ldVxK _ => 0xF0FF#16
  | .ldDtVx _ => 0xF0FF#16
  | .ldStVx _ => 0xF0FF#16
  | .addI _ => 0xF0FF#16
  | .ldF _ => 0xF0FF#16
  | .ldB _ => 0xF0FF#16
  | .storeRegs _ => 0xF0FF#16
  | .loadRegs _ => 0xF0FF#16

/-- The row's match: the values of its fixed bits. -/
def rowMatch : Instr → Word
  | .cls => 0x00E0#16
  | .ret => 0x00EE#16
  | .jp _ => 0x1000#16
  | .call _ => 0x2000#16
  | .seImm _ _ => 0x3000#16
  | .sneImm _ _ => 0x4000#16
  | .seReg _ _ => 0x5000#16
  | .ldImm _ _ => 0x6000#16
  | .addImm _ _ => 0x7000#16
  | .ldReg _ _ => 0x8000#16
  | .orReg _ _ => 0x8001#16
  | .andReg _ _ => 0x8002#16
  | .xorReg _ _ => 0x8003#16
  | .addReg _ _ => 0x8004#16
  | .subReg _ _ => 0x8005#16
  | .shr _ _ => 0x8006#16
  | .subnReg _ _ => 0x8007#16
  | .shl _ _ => 0x800E#16
  | .sneReg _ _ => 0x9000#16
  | .ldI _ => 0xA000#16
  | .jpV0 _ => 0xB000#16
  | .rnd _ _ => 0xC000#16
  | .drw _ _ _ => 0xD000#16
  | .skp _ => 0xE09E#16
  | .sknp _ => 0xE0A1#16
  | .ldVxDt _ => 0xF007#16
  | .ldVxK _ => 0xF00A#16
  | .ldDtVx _ => 0xF015#16
  | .ldStVx _ => 0xF018#16
  | .addI _ => 0xF01E#16
  | .ldF _ => 0xF029#16
  | .ldB _ => 0xF033#16
  | .storeRegs _ => 0xF055#16
  | .loadRegs _ => 0xF065#16

/-- The word of `i` is in its row. -/
def Statement (i : Instr) : Prop := encode i &&& rowMask i = rowMatch i

/-- Format NNN under the mask of the family nibble. -/
theorem nnn_row (f : BitVec 4) (nnn : BitVec 12) :
    formNnn f nnn &&& ((0xF#4 ++ 0x000#12 : BitVec 16)) = (f ++ 0x000#12 : BitVec 16) := by
  rw [formNnn, BitVec.and_append, BitVec.and_zero, show f &&& 0xF#4 = f from BitVec.and_allOnes]

/-- Format XKK under the mask of the family nibble. -/
theorem xkk_row (f : BitVec 4) (x : RegIx) (kk : Byte) :
    formXkk f x kk &&& ((0xF#4 ++ 0x000#12 : BitVec 16)) = (f ++ 0x000#12 : BitVec 16) := nnn_row f _

/-- Format XS under the mask of the family nibble and the selector byte. -/
theorem xs_row (f : BitVec 4) (x : RegIx) (kk : Byte) :
    formXkk f x kk &&& ((0xF#4 ++ (0x0#4 ++ 0xFF#8 : BitVec 12) : BitVec 16)) =
      (f ++ (0x0#4 ++ kk : BitVec 12) : BitVec 16) := by
  rw [formXkk, BitVec.and_append, BitVec.and_append, BitVec.and_zero,
    show f &&& 0xF#4 = f from BitVec.and_allOnes, show kk &&& 0xFF#8 = kk from BitVec.and_allOnes]

/-- Format XYS under the mask of the family nibble and the selector nibble. -/
theorem xys_row (f : BitVec 4) (x y : RegIx) (n : BitVec 4) :
    formXyn f x y n &&& ((0xF#4 ++ (0x0#4 ++ (0x0#4 ++ 0xF#4 : BitVec 8) : BitVec 12) : BitVec 16)) =
      (f ++ (0x0#4 ++ (0x0#4 ++ n : BitVec 8) : BitVec 12) : BitVec 16) := by
  rw [formXyn, BitVec.and_append, BitVec.and_append, BitVec.and_append, BitVec.and_zero, BitVec.and_zero,
    show f &&& 0xF#4 = f from BitVec.and_allOnes, show n &&& 0xF#4 = n from BitVec.and_allOnes]

theorem cls : Statement .cls := rfl
theorem ret : Statement .ret := rfl
theorem jp (nnn : BitVec 12) : Statement (.jp nnn) := nnn_row 0x1#4 nnn
theorem call (nnn : BitVec 12) : Statement (.call nnn) := nnn_row 0x2#4 nnn
theorem seImm (x : RegIx) (kk : Byte) : Statement (.seImm x kk) := xkk_row 0x3#4 x kk
theorem sneImm (x : RegIx) (kk : Byte) : Statement (.sneImm x kk) := xkk_row 0x4#4 x kk
theorem seReg (x y : RegIx) : Statement (.seReg x y) := xys_row 0x5#4 x y 0x0#4
theorem ldImm (x : RegIx) (kk : Byte) : Statement (.ldImm x kk) := xkk_row 0x6#4 x kk
theorem addImm (x : RegIx) (kk : Byte) : Statement (.addImm x kk) := xkk_row 0x7#4 x kk
theorem ldReg (x y : RegIx) : Statement (.ldReg x y) := xys_row 0x8#4 x y 0x0#4
theorem orReg (x y : RegIx) : Statement (.orReg x y) := xys_row 0x8#4 x y 0x1#4
theorem andReg (x y : RegIx) : Statement (.andReg x y) := xys_row 0x8#4 x y 0x2#4
theorem xorReg (x y : RegIx) : Statement (.xorReg x y) := xys_row 0x8#4 x y 0x3#4
theorem addReg (x y : RegIx) : Statement (.addReg x y) := xys_row 0x8#4 x y 0x4#4
theorem subReg (x y : RegIx) : Statement (.subReg x y) := xys_row 0x8#4 x y 0x5#4
theorem shr (x y : RegIx) : Statement (.shr x y) := xys_row 0x8#4 x y 0x6#4
theorem subnReg (x y : RegIx) : Statement (.subnReg x y) := xys_row 0x8#4 x y 0x7#4
theorem shl (x y : RegIx) : Statement (.shl x y) := xys_row 0x8#4 x y 0xE#4
theorem sneReg (x y : RegIx) : Statement (.sneReg x y) := xys_row 0x9#4 x y 0x0#4
theorem ldI (nnn : BitVec 12) : Statement (.ldI nnn) := nnn_row 0xA#4 nnn
theorem jpV0 (nnn : BitVec 12) : Statement (.jpV0 nnn) := nnn_row 0xB#4 nnn
theorem rnd (x : RegIx) (kk : Byte) : Statement (.rnd x kk) := xkk_row 0xC#4 x kk
theorem drw (x y : RegIx) (n : Nat) : Statement (.drw x y n) := nnn_row 0xD#4 _
theorem skp (x : RegIx) : Statement (.skp x) := xs_row 0xE#4 x 0x9E#8
theorem sknp (x : RegIx) : Statement (.sknp x) := xs_row 0xE#4 x 0xA1#8
theorem ldVxDt (x : RegIx) : Statement (.ldVxDt x) := xs_row 0xF#4 x 0x07#8
theorem ldVxK (x : RegIx) : Statement (.ldVxK x) := xs_row 0xF#4 x 0x0A#8
theorem ldDtVx (x : RegIx) : Statement (.ldDtVx x) := xs_row 0xF#4 x 0x15#8
theorem ldStVx (x : RegIx) : Statement (.ldStVx x) := xs_row 0xF#4 x 0x18#8
theorem addI (x : RegIx) : Statement (.addI x) := xs_row 0xF#4 x 0x1E#8
theorem ldF (x : RegIx) : Statement (.ldF x) := xs_row 0xF#4 x 0x29#8
theorem ldB (x : RegIx) : Statement (.ldB x) := xs_row 0xF#4 x 0x33#8
theorem storeRegs (x : RegIx) : Statement (.storeRegs x) := xs_row 0xF#4 x 0x55#8
theorem loadRegs (x : RegIx) : Statement (.loadRegs x) := xs_row 0xF#4 x 0x65#8

end Sys2Proof.Laws.RowPattern
end

