-- ==== Sys2Proof/Laws/Step.lean ====
section
/-! SUPPORT. What a step can do, said once. -/
namespace Sys2Proof.Machine

@[simp] theorem fetch_arrive (s : State) : fetch s.arrive = fetch s := rfl

/-- With no fault recorded the step is the engine's, in the state the environment leaves. -/
theorem step_eq {s : State} (h : s.fault = none) : step s = engineStep s.arrive := by rw [step, h]

theorem engineStep_awaiting {s : State} {x : RegIx} (h : s.mode = .awaitingKey x) :
    engineStep s = .next (resolveWait x s) := by rw [engineStep, h]

theorem engineStep_running {s : State} (h : s.mode = .running) : engineStep s = runInstruction s := by
  rw [engineStep, h]

/-- A resolved wait, case by case (40_engine R138). -/
theorem resolveWait_some {s : State} {x : RegIx} {k : Nat} (h : s.leastKey = some k) :
    resolveWait x s = (s.takeKey x k).setMode .running := by rw [resolveWait, h]

theorem resolveWait_none {s : State} {x : RegIx} (h : s.leastKey = none) : resolveWait x s = s := by
  rw [resolveWait, h]

theorem runInstruction_ok {s : State} {w : Word} (h : fetch s = .ok w) :
    runInstruction s = execDecoded (decodeWord w) s := by rw [runInstruction, h]

theorem runInstruction_error {s : State} {f : Fault} (h : fetch s = .error f) : runInstruction s = .fault f := by
  rw [runInstruction, h]; rfl

/-- The next instruction is `i` exactly when the engine fetches a word that decodes to `i`. -/
theorem runs_iff {s : State} {i : Instr} :
    Runs s i ↔ Fetching s ∧ ∃ w, fetch s = .ok w ∧ decodeWord w = .instr i := by
  rw [Runs, decodeBytes_pair, fetch_eq]
  constructor
  · rintro ⟨h, hp, hd⟩
    exact ⟨h, _, if_pos hp, hd⟩
  · rintro ⟨h, w, hw, hd⟩
    have hp := fetch_ok_pc ((fetch_eq s).trans hw)
    rw [if_pos hp] at hw
    cases hw
    exact ⟨h, hp, hd⟩

/-- What a step can do, whatever its outcome: resolve a wait, fault at the fetch, execute an instruction, or pass an unknown
opcode. -/
theorem step_cases {s : State} (h : s.fault = none) :
    (∃ x, s.mode = .awaitingKey x ∧ step s = .next (resolveWait x s.arrive)) ∨
    (Fetching s ∧ 4096 < s.pc.toNat + 2 ∧
      step s = .fault (.memoryOutOfBounds (max s.pc.toNat 4096) .fetch)) ∨
    (∃ i, Runs s i ∧ step s = exec i s.arrive) ∨
    (∃ w u, Fetching s ∧ fetch s = .ok w ∧ decodeWord w = .unknown u ∧ step s = execUnknown u s.arrive) := by
  rw [step_eq h]
  cases hm : s.mode with
  | awaitingKey x => exact .inl ⟨x, rfl, engineStep_awaiting hm⟩
  | running =>
    have hf : Fetching s := ⟨hm, h⟩
    rw [engineStep_running (s := s.arrive) hm]
    by_cases hp : s.pc.toNat + 2 ≤ 4096
    · have hw : fetch s = .ok _ := (fetch_eq s).trans (if_pos hp)
      rw [runInstruction_ok (s := s.arrive) hw]
      cases hd : decodeWord (composeWord (readByte s.mem s.pc.toNat) (readByte s.mem (s.pc.toNat + 1))) with
      | instr i => exact .inr (.inr (.inl ⟨i, runs_iff.2 ⟨hf, _, hw, hd⟩, rfl⟩))
      | unknown u => exact .inr (.inr (.inr ⟨_, u, hf, hw, hd, rfl⟩))
    · refine .inr (.inl ⟨hf, by omega, runInstruction_error (s := s.arrive) ?_⟩)
      exact (fetch_eq s).trans (if_neg hp)

/-- A step that completes began with no fault recorded. -/
theorem fault_none_of_next {s t : State} (h : step s = .next t) : s.fault = none := by
  rw [step] at h
  cases hf : s.fault with
  | none => rfl
  | some f => rw [hf] at h; cases h

end Sys2Proof.Machine
end

