-- ==== Sys2Proof/Tests/Slice0.lean ====
section
/-! SUPPORT. Tests. Expected results are the spec's: its encodings (30_encoding R102, R105), its examples and its vectors
(95_test_vectors); then, for each statement with hypotheses, a state and operands that meet them. -/
namespace Sys2Proof.Tests
open Sys2Proof.Machine

/-! ## WellFormed: an ill-formed term for its one check, and the bound itself -/

theorem test_height_16_is_ill_formed : (Instr.drw 1 2 16).wellFormed = false := by decide
theorem test_height_15_is_well_formed : (Instr.drw 1 2 15).wellFormed = true := by decide

/-! ## Decoding: each constructor's word, bit by bit from its format (30_encoding R102, R105) -/

theorem test_decode_cls : decodeTableWord 16 0b0000000011100000 = some .cls := by decide
theorem test_decode_ret : decodeTableWord 16 0b0000000011101110 = some .ret := by decide
theorem test_decode_jp : decodeTableWord 16 0b0001101010111100 = some (.jp 0xABC) := by decide
theorem test_decode_call : decodeTableWord 16 0b0010001100000001 = some (.call 0x301) := by decide
theorem test_decode_seImm : decodeTableWord 16 0b0011101001011100 = some (.seImm 0xA 0x5C) := by decide
theorem test_decode_sneImm : decodeTableWord 16 0b0100010111000011 = some (.sneImm 5 0xC3) := by decide
theorem test_decode_seReg : decodeTableWord 16 0b0101000111100000 = some (.seReg 1 0xE) := by decide
theorem test_decode_ldImm : decodeTableWord 16 0b0110101001000010 = some (.ldImm 0xA 0x42) := by decide
theorem test_decode_addImm : decodeTableWord 16 0b0111001000000011 = some (.addImm 2 3) := by decide
theorem test_decode_ldReg : decodeTableWord 16 0b1000000100100000 = some (.ldReg 1 2) := by decide
theorem test_decode_orReg : decodeTableWord 16 0b1000001101000001 = some (.orReg 3 4) := by decide
theorem test_decode_andReg : decodeTableWord 16 0b1000010101100010 = some (.andReg 5 6) := by decide
theorem test_decode_xorReg : decodeTableWord 16 0b1000011110000011 = some (.xorReg 7 8) := by decide
theorem test_decode_addReg : decodeTableWord 16 0b1000100110100100 = some (.addReg 9 0xA) := by decide
theorem test_decode_subReg : decodeTableWord 16 0b1000101111000101 = some (.subReg 0xB 0xC) := by decide
theorem test_decode_shr : decodeTableWord 16 0b1000110111100110 = some (.shr 0xD 0xE) := by decide
theorem test_decode_subnReg : decodeTableWord 16 0b1000111100000111 = some (.subnReg 0xF 0) := by decide
theorem test_decode_shl : decodeTableWord 16 0b1000111100011110 = some (.shl 0xF 1) := by decide
theorem test_decode_sneReg : decodeTableWord 16 0b1001110100100000 = some (.sneReg 0xD 2) := by decide
theorem test_decode_ldI : decodeTableWord 16 0b1010001011110000 = some (.ldI 0x2F0) := by decide
theorem test_decode_jpV0 : decodeTableWord 16 0b1011010100000001 = some (.jpV0 0x501) := by decide
theorem test_decode_rnd : decodeTableWord 16 0b1100001100001111 = some (.rnd 3 0x0F) := by decide
theorem test_decode_drw : decodeTableWord 16 0b1101000100101111 = some (.drw 1 2 15) := by decide
theorem test_decode_skp : decodeTableWord 16 0b1110010110011110 = some (.skp 5) := by decide
theorem test_decode_sknp : decodeTableWord 16 0b1110110110100001 = some (.sknp 0xD) := by decide
theorem test_decode_ldVxDt : decodeTableWord 16 0b1111001100000111 = some (.ldVxDt 3) := by decide
theorem test_decode_ldVxK : decodeTableWord 16 0b1111001000001010 = some (.ldVxK 2) := by decide
theorem test_decode_ldDtVx : decodeTableWord 16 0b1111000100010101 = some (.ldDtVx 1) := by decide
theorem test_decode_ldStVx : decodeTableWord 16 0b1111000100011000 = some (.ldStVx 1) := by decide
theorem test_decode_addI : decodeTableWord 16 0b1111011000011110 = some (.addI 6) := by decide
theorem test_decode_ldF : decodeTableWord 16 0b1111101000101001 = some (.ldF 0xA) := by decide
theorem test_decode_ldB : decodeTableWord 16 0b1111100000110011 = some (.ldB 8) := by decide
theorem test_decode_storeRegs : decodeTableWord 16 0b1111001001010101 = some (.storeRegs 2) := by decide
theorem test_decode_loadRegs : decodeTableWord 16 0b1111111101100101 = some (.loadRegs 0xF) := by decide

/-- The unknown words of 95_test_vectors 2.1 and S12. -/
theorem test_unknown_words : [0x0000, 0x0123, 0x00E1, 0x5121, 0x9121, 0x8008, 0x800C, 0x800F, 0xE000, 0xE09F, 0xF000,
    0xF0FF, 0xFFFF].map (decodeTableWord 16) = List.replicate 13 none := by decide

/-- Bytes: one is no word, an unknown word is named, and what follows an instruction is left. -/
theorem test_decode_bytes : decodeBytes [0x60] = .error .truncated ∧
    decodeBytes [0x01, 0x23] = .error (.unknownWord 0x0123) ∧
    decodeBytes [0x60, 0x05, 0xAA] = .ok (.ldImm 0 5, [0xAA]) := ⟨rfl, rfl, rfl⟩

/-! ## One step (95_test_vectors; `after` is false where the answer is no next state) -/

/-- The answer is a next state of which `p` holds. -/
def after (r : Result) (p : State → Bool) : Bool :=
  match r with
  | .next t => p t
  | .fault _ => false
  | .refused _ => false

/-- The answer is this fault. -/
def faults (r : Result) (f : Fault) : Bool :=
  match r with
  | .next _ => false
  | .fault g => g == f
  | .refused _ => false

/-- The reset state with V0 and V1 set. -/
def two (a b : Byte) : State := (State.reset.setReg 0 a).setReg 1 b

/-- What the environment does around a step: no tick, the keys and the random byte given. -/
def press (keys : BitVec 16) (random : Byte) : StepInput :=
  { delayTicks := 0, soundTicks := 0, takesDirty := false, keys := keys, random := random }

-- R141: 6005 at 0x200.
theorem test_step_ldImm : after (step (State.reset.withFetchWord 16 0x6005))
    (fun t => t.reg 0 == 0x05 && t.pc == 0x202) = true := by decide
-- 2.1: pc = 0FFE fetches 1200.
theorem test_step_last_word : after (step ((State.reset.setPc 0xFFE).withFetchWord 16 0x1200)) (fun t => t.pc == 0x200) = true := by decide
-- 2.1: pc = 0FFF and pc = 10FE.
theorem test_fetch_fault_0fff : faults (step (State.reset.setPc 0xFFF)) (.memoryOutOfBounds 0x1000 .fetch) = true := by decide
theorem test_fetch_fault_10fe : faults (step (State.reset.setPc 0x10FE)) (.memoryOutOfBounds 0x10FE .fetch) = true := by decide
-- 2.1: an odd pc.
theorem test_step_odd_pc : after (step ((State.reset.setPc 0x201).withFetchWord 16 0x6307))
    (fun t => t.reg 3 == 0x07 && t.pc == 0x203) = true := by decide
-- S12: FFFF.
theorem test_step_unknown : after (step (State.reset.withFetchWord 16 0xFFFF))
    (fun t => t.pc == 0x202 && t.diagnostics == [{ pc := 0x200, word := 0xFFFF }]) = true := by decide
-- The sampled inputs: three delay ticks, the snapshot, the random byte (R56, R57, R63).
theorem test_step_samples : after (step { (State.reset.setDt 5).withFetchWord 16 0xC30F with
      inputs := [{ delayTicks := 3, soundTicks := 1, takesDirty := false, keys := 2, random := 0xA7 }] })
    (fun t => t.reg 3 == 0x07 && t.dt == 2 && t.st == 0 && t.keys == 2 && t.inputs == [] && t.inputCount == 1) = true := by decide

-- 2.2 Control flow.
theorem test_ret : after (exec .ret ((State.reset.setStack [0x202]).setPc 0x300)) (fun t => t.pc == 0x204 && t.stack == []) = true := by decide
theorem test_ret_empty : faults (exec .ret (State.reset.setPc 0x300)) (.stackUnderflow 0x300) = true := by decide
theorem test_jp : after (exec (.jp 0x300) State.reset) (fun t => t.pc == 0x300) = true := by decide
theorem test_call : after (exec (.call 0x300) State.reset) (fun t => t.pc == 0x300 && t.stack == [0x200]) = true := by decide
theorem test_call_full : faults (exec (.call 0x300) (State.reset.setStack (List.replicate 16 0x200))) (.stackOverflow 0x200) = true := by decide
theorem test_seImm : after (exec (.seImm 3 0x10) ((State.reset.setReg 3 0x10).setPc 0x204)) (fun t => t.pc == 0x208) = true := by decide
theorem test_sneImm : after (exec (.sneImm 3 0x10) ((State.reset.setReg 3 0x10).setPc 0x204)) (fun t => t.pc == 0x206) = true := by decide
theorem test_seReg : after (exec (.seReg 1 2) (State.reset.setReg 1 1)) (fun t => t.pc == 0x202) = true := by decide
theorem test_sneReg : after (exec (.sneReg 1 2) (State.reset.setReg 1 1)) (fun t => t.pc == 0x204) = true := by decide
theorem test_jpV0 : after (exec (.jpV0 0xFFF) (State.reset.setReg 0 0xFF)) (fun t => t.pc == 0x10FE) = true := by decide
theorem test_jpV0_is_v0 : after (exec (.jpV0 0x500) ((State.reset.setReg 0 2).setReg 5 0x50)) (fun t => t.pc == 0x502) = true := by decide

-- 2.3 ALU.
theorem test_ldImm_vf : after (exec (.ldImm 0xF 0xAA) State.reset) (fun t => t.reg 0xF == 0xAA) = true := by decide
theorem test_addImm : after (exec (.addImm 2 3) (State.reset.setReg 2 0xFE)) (fun t => t.reg 2 == 1 && t.reg 0xF == 0) = true := by decide
theorem test_addImm_vf : after (exec (.addImm 0xF 0xFF) (State.reset.setReg 0xF 1)) (fun t => t.reg 0xF == 0) = true := by decide
theorem test_ldReg : after (exec (.ldReg 0 1) (two 0 0x33)) (fun t => t.reg 0 == 0x33) = true := by decide
theorem test_orReg : after (exec (.orReg 0 1) ((two 0xF0 0x0F).setReg 0xF 0x55)) (fun t => t.reg 0 == 0xFF && t.reg 0xF == 0x55) = true := by decide
theorem test_andReg : after (exec (.andReg 0 1) ((two 0xF0 0x3C).setReg 0xF 0x55)) (fun t => t.reg 0 == 0x30 && t.reg 0xF == 0x55) = true := by decide
theorem test_xorReg : after (exec (.xorReg 0 1) ((two 0xF0 0x3C).setReg 0xF 0x55)) (fun t => t.reg 0 == 0xCC && t.reg 0xF == 0x55) = true := by decide
theorem test_addReg : after (exec (.addReg 0 1) (two 0xFF 0x01)) (fun t => t.reg 0 == 0 && t.reg 0xF == 1) = true := by decide
theorem test_addReg_vf : after (exec (.addReg 0xF 1) ((two 0 0x20).setReg 0xF 0x10)) (fun t => t.reg 0xF == 0) = true := by decide
theorem test_subReg : after (exec (.subReg 0 1) (two 3 5)) (fun t => t.reg 0 == 0xFE && t.reg 0xF == 0) = true := by decide
theorem test_subReg_equal : after (exec (.subReg 0 1) (two 0x42 0x42)) (fun t => t.reg 0 == 0 && t.reg 0xF == 1) = true := by decide
theorem test_shr : after (exec (.shr 0 1) (two 4 0xFF)) (fun t => t.reg 0 == 2 && t.reg 0xF == 0) = true := by decide
theorem test_shr_vf : after (exec (.shr 0xF 0) (State.reset.setReg 0xF 3)) (fun t => t.reg 0xF == 1) = true := by decide
theorem test_subnReg : after (exec (.subnReg 0 1) (two 3 5)) (fun t => t.reg 0 == 2 && t.reg 0xF == 1) = true := by decide
theorem test_subnReg_borrow : after (exec (.subnReg 0 1) (two 5 3)) (fun t => t.reg 0 == 0xFE && t.reg 0xF == 0) = true := by decide
theorem test_shl : after (exec (.shl 0 1) (two 0x81 0)) (fun t => t.reg 0 == 2 && t.reg 0xF == 1) = true := by decide
theorem test_shl_vf : after (exec (.shl 0xF 0) (State.reset.setReg 0xF 0x80)) (fun t => t.reg 0xF == 1) = true := by decide

-- 2.4 Index register and memory.
theorem test_ldI : after (exec (.ldI 0x2F0) State.reset) (fun t => t.i == 0x2F0 && t.pc == 0x202) = true := by decide
theorem test_addI : after (exec (.addI 0) ((two 1 0).setI 0xFFFF)) (fun t => t.i == 0) = true := by decide
theorem test_ldF : after (exec (.ldF 0) (two 0xFF 0)) (fun t => t.i == 0x4FB) = true := by decide
theorem test_ldB : after (exec (.ldB 0) ((two 0x9C 0).setI 0x300)) (fun t => readBytes t.mem 0x300 3 == [1, 5, 6] && t.i == 0x300) = true := by decide
theorem test_ldB_top : faults (exec (.ldB 0) ((two 7 0).setI 0xFFE)) (.memoryOutOfBounds 0x1000 .write) = true := by decide
theorem test_storeRegs : after (exec (.storeRegs 1) ((two 0x11 0x22).setI 0x300)) (fun t => readBytes t.mem 0x300 3 == [0x11, 0x22, 0] && t.i == 0x300) = true := by decide
theorem test_storeRegs_top : faults (exec (.storeRegs 1) (State.reset.setI 0xFFF)) (.memoryOutOfBounds 0x1000 .write) = true := by decide
theorem test_loadRegs : after (exec (.loadRegs 1) (State.reset.setReg 2 0x99)) (fun t => t.reg 0 == 0xF0 && t.reg 1 == 0x90 && t.reg 2 == 0x99) = true := by decide
theorem test_loadRegs_top : faults (exec (.loadRegs 0) (State.reset.setI 0x1000)) (.memoryOutOfBounds 0x1000 .read) = true := by decide

-- 2.5 Display: two rows F0 90 at (62, 31), and the faults and corners of DRW.
theorem test_cls : after (exec .cls (State.reset.paint (togglePixel blankFb 5 5))) (fun t => !pixel t.fb 5 5 && t.dirty) = true := by decide
/-- I = 0x300 over the sprite bytes F0 90. -/
def sprite : State := { (two 0x3E 0x1F).setI 0x300 with mem := [(0x300, 0xF0), (0x301, 0x90)] }
theorem test_drw_wraps : after (exec (.drw 0 1 2) sprite) (fun t =>
    pixel t.fb 62 31 && pixel t.fb 63 31 && pixel t.fb 0 31 && pixel t.fb 1 31 && pixel t.fb 62 0 && pixel t.fb 1 0 &&
    !pixel t.fb 63 0 && t.reg 0xF == 0 && t.dirty) = true := by decide
theorem test_drw_fault : faults (exec (.drw 0 1 2) (State.reset.setI 0xFFF)) (.memoryOutOfBounds 0x1000 .read) = true := by decide

-- 2.6 Input and timers.
theorem test_skp : after (exec (.skp 5) { State.reset.setReg 5 0xA with keys := 0x0400 }) (fun t => t.pc == 0x204) = true := by decide
theorem test_skp_fault : faults (exec (.skp 5) (State.reset.setReg 5 0x10)) (.keyIndexOutOfRange 0x10) = true := by decide
theorem test_sknp : after (exec (.sknp 5) { State.reset.setReg 5 0xA with keys := 0x0400 }) (fun t => t.pc == 0x202) = true := by decide
theorem test_sknp_fault : faults (exec (.sknp 5) (State.reset.setReg 5 0xFF)) (.keyIndexOutOfRange 0xFF) = true := by decide
theorem test_ldVxDt : after (exec (.ldVxDt 3) (State.reset.setDt 0x3C)) (fun t => t.reg 3 == 0x3C) = true := by decide
theorem test_ldVxK_two_keys : after (exec (.ldVxK 2) { State.reset with keys := 0x0208 }) (fun t => t.reg 2 == 3 && t.pc == 0x202) = true := by decide
theorem test_ldVxK_waits : after (exec (.ldVxK 2) State.reset) (fun t => t.mode == .awaitingKey 2 && t.pc == 0x200) = true := by decide
theorem test_ldDtVx : after (exec (.ldDtVx 0) (two 0x3C 0)) (fun t => t.dt == 0x3C) = true := by decide
theorem test_ldStVx : after (exec (.ldStVx 1) (two 0 5)) (fun t => t.st == 5 && t.soundOn) = true := by decide
theorem test_rnd : after (exec (.rnd 3 0x0F) { State.reset with random := 0xA7 }) (fun t => t.reg 3 == 0x07) = true := by decide
theorem test_wait_resolves : after (step { State.reset.setMode (.awaitingKey 2) with inputs := [press 0x0080 0] })
    (fun t => t.reg 2 == 7 && t.pc == 0x202 && t.mode == .running) = true := by decide
theorem test_ticks : (State.reset.setDt 1).tickDelay.dt = 0 ∧ (State.reset.setDt 1).tickDelay.tickDelay.dt = 0 ∧
    ((State.reset.setSt 2).setDt 5).tickSound.st = 1 ∧ ((State.reset.setSt 2).setDt 5).tickSound.dt = 5 := by decide
theorem test_takeDirty : (State.reset.paint blankFb).takeDirty.1 = true ∧ (State.reset.paint blankFb).takeDirty.2.dirty = false := by decide

/-- With the default font and no image, booting is reset (70_reset_and_hazards R330, R334). -/
theorem test_boot_is_reset : State.boot font [] = some State.reset := by decide
/-- The fault codes (60_exceptions R302). -/
theorem test_fault_codes : [Fault.stackOverflow 0, .stackUnderflow 0, .memoryOutOfBounds 0x1000 .read, .keyIndexOutOfRange 0x10].map
    Fault.code = [1, 2, 3, 4] := by decide

/-! ## A state and operands for the hypotheses of each statement -/

/-- `Runs` as a computation. -/
def runs (s : State) (i : Instr) : Bool :=
  decide (s.mode = .running) && decide (s.fault = none) && decide (s.pc.toNat + 2 ≤ 0x1000) &&
    decide (decodeWord (composeWord (readByte s.mem s.pc.toNat) (readByte s.mem (s.pc.toNat + 1))) = .instr i)

theorem runs_sound {s : State} {i : Instr} (h : runs s i = true) : Runs s i := by
  simp only [runs, Bool.and_eq_true, decide_eq_true_eq] at h
  exact ⟨⟨h.1.1.1, h.1.1.2⟩, h.1.2, decodeBytes_pair.2 h.2⟩

/-- A completed answer, as an equation. -/
theorem next_of_after {r : Result} {p : State → Bool} (h : after r p = true) : ∃ t, r = .next t ∧ p t = true := by
  unfold after at h
  split at h
  · exact ⟨_, rfl, h⟩
  · cases h
  · cases h

theorem fault_of_faults {r : Result} {f : Fault} (h : faults r f = true) : r = .fault f := by
  unfold faults at h
  split at h
  · cases h
  · rw [eq_of_beq h]
  · cases h

theorem witness_DecodeInvertsEncode : (Instr.drw 0xF 0 15).wellFormed = true ∧ (Instr.drw 0 0 0).wellFormed = true := by decide
theorem witness_EncodeInvertsDecode : decodeWord 0xDFFF = .instr (.drw 0xF 0xF 15) := by decide
theorem witness_UnknownWordsExactly : decodeWord 0x00E1 = .unknown 0x00E1 ∧ decodeWord 0x500F = .unknown 0x500F ∧
    decodeWord 0x9001 = .unknown 0x9001 ∧ decodeWord 0x8008 = .unknown 0x8008 ∧ decodeWord 0x800F = .unknown 0x800F ∧
    decodeWord 0xE09F = .unknown 0xE09F ∧ decodeWord 0xF066 = .unknown 0xF066 := by decide
theorem witness_BootLoadsFontAndImage : font.length = 80 ∧ (List.replicate 3584 (0x12 : Byte)).length ≤ 3584 ∧
    3584 < (List.replicate 3585 (0x12 : Byte)).length :=
  ⟨rfl, by rw [List.length_replicate], by rw [List.length_replicate]; decide⟩
theorem witness_ResetHasInvariant : font.length = 80 ∧ (State.boot font [0x12, 0x00]).isSome = true := by decide
theorem witness_StepRunsDecodedInstruction : Runs (State.reset.withFetchWord 16 0x6005) (.ldImm 0 5) := runs_sound (by decide)
theorem witness_ArrivalIsDriverActions : State.inputs { State.reset with inputs := [press 1 2] } = press 1 2 :: [] := rfl
theorem witness_FetchIsBigEndian : (State.reset.setPc 0xFFE).pc.toNat + 1 ≤ 0xFFF := by decide
theorem witness_FetchFaultsAboveMemory : Fetching (State.reset.setPc 0xFFF) ∧ 0xFFE < (State.reset.setPc 0xFFF).pc.toNat ∧
    Fetching (State.reset.setPc 0x1000) ∧ 0xFFF < (State.reset.setPc 0x1000).pc.toNat := by
  refine ⟨⟨rfl, rfl⟩, by decide, ⟨rfl, rfl⟩, by decide⟩
theorem witness_UnknownOpcodeIsNoOp : Fetching State.reset ∧ fetch State.reset = .ok 0 ∧ decodeWord 0 = .unknown 0 :=
  ⟨⟨rfl, rfl⟩, rfl, rfl⟩

/-- Waiting for a key into V2 at 0x200, where an Fx0A stands, with this step's snapshot given. -/
def waiting (keys : BitVec 16) : State :=
  { (State.reset.withFetchWord 16 0xF20A).setMode (.awaitingKey 2) with inputs := [press keys 0] }

theorem witness_AwaitingKeyStep_none : (waiting 0).fault = none ∧ (waiting 0).mode = .awaitingKey 2 ∧
    ∀ k < 16, (waiting 0).nextInput.keys.getLsbD k = false := by decide
theorem witness_AwaitingKeyStep_key : (waiting 0x8000).fault = none ∧ (waiting 0x8000).mode = .awaitingKey 2 ∧
    (waiting 0x8000).nextInput.keys.getLsbD 15 = true ∧ (∀ j < 15, (waiting 0x8000).nextInput.keys.getLsbD j = false) ∧
    (waiting 1).nextInput.keys.getLsbD 0 = true := by decide
theorem witness_ReturnPopsAndAdvances : (State.reset.setStack [0x202]).stack = [] ++ [0x202#16] ∧
    (State.reset.withFetchWord 16 0x00EE).stack = [] ∧ Runs (State.reset.withFetchWord 16 0x00EE) .ret := ⟨rfl, rfl, runs_sound (by decide)⟩
theorem witness_JumpSetsPc : BitVec.ofNat 12 0xFFF = 0xFFF := rfl
theorem witness_CallPushesOwnAddress : (State.reset.setStack (List.replicate 15 0x200)).stack.length < 16 ∧
    16 ≤ (State.reset.setStack (List.replicate 16 0x200)).stack.length := by decide
theorem witness_CallThenReturnRestores : (State.reset.setStack (List.replicate 15 0x200)).stack.length < 16 := by decide
theorem witness_ImmediateSkips : State.reset.reg 3 = 0 ∧ State.reset.reg 3 ≠ 1 := by decide
theorem witness_RegisterSkips : State.reset.reg 3 = State.reset.reg 4 ∧ (two 1 2).reg 0 ≠ (two 1 2).reg 1 := by decide
theorem witness_OffsetJump : after (exec (.jpV0 0xFFF) State.reset) (fun t => decide (0xFFE < t.pc.toNat)) = true ∧
    (two 0xFF 0).reg 0 = 0xFF := by decide
theorem witness_AddWithCarry : (0 : RegIx) ≠ 0xF ∧ 255 < ((two 0xFF 1).reg 0).toNat + ((two 0xFF 1).reg 1).toNat ∧
    ((two 0xFE 1).reg 0).toNat + ((two 0xFE 1).reg 1).toNat ≤ 255 := by decide
theorem witness_SubtractWithNotBorrow : (0 : RegIx) ≠ 0xF ∧ ((two 5 5).reg 1).toNat ≤ ((two 5 5).reg 0).toNat ∧
    ((two 5 6).reg 0).toNat < ((two 5 6).reg 1).toNat := by decide
theorem witness_ReverseSubtractWithNotBorrow : (0 : RegIx) ≠ 0xF ∧ ((two 5 5).reg 0).toNat ≤ ((two 5 5).reg 1).toNat ∧
    ((two 6 5).reg 1).toNat < ((two 6 5).reg 0).toNat := by decide
theorem witness_ShiftsWithBitOut : (0xE : RegIx) ≠ 0xF := by decide
theorem witness_RandomAndImmediate : Runs (State.reset.withFetchWord 16 0xC30F) (.rnd 3 0x0F) := runs_sound (by decide)

/-- The reset state with I at an address and a word at pc. -/
def at_ (i : Word) (w : Nat) : State := (State.reset.withFetchWord 16 w).setI i

theorem witness_BcdStoresDigits : (at_ 0xFFD 0xF033).mem.wf = true ∧ (at_ 0xFFD 0xF033).i.toNat + 2 ≤ 0xFFF ∧
    0xFFF < (at_ 0xFFE 0xF033).i.toNat + 2 := by decide
theorem witness_BcdStoresDigits_faults : (at_ 0xFFE 0xF033).mem.wf = true ∧ 0xFFF < (at_ 0xFFE 0xF033).i.toNat + 2 ∧
    Runs (at_ 0xFFE 0xF033) (.ldB 0) := ⟨by decide, by decide, runs_sound (by decide)⟩
theorem witness_StoreRegistersAtIndex : (at_ 0xFF0 0xFF55).mem.wf = true ∧ (at_ 0xFF0 0xFF55).i.toNat + (0xF : RegIx).val ≤ 0xFFF ∧
    0xFFF < (at_ 0xFF1 0xFF55).i.toNat + (0xF : RegIx).val := by decide
theorem witness_StoreRegistersAtIndex_faults : (at_ 0xFF1 0xFF55).mem.wf = true ∧
    0xFFF < (at_ 0xFF1 0xFF55).i.toNat + (0xF : RegIx).val ∧ Runs (at_ 0xFF1 0xFF55) (.storeRegs 0xF) :=
  ⟨by decide, by decide, runs_sound (by decide)⟩
theorem witness_LoadRegistersFromIndex : (at_ 0xFFF 0xF065).i.toNat + (0 : RegIx).val ≤ 0xFFF ∧
    0xFFF < (at_ 0x1000 0xF065).i.toNat + (0 : RegIx).val := by decide
theorem witness_LoadRegistersFromIndex_faults : 0xFFF < (at_ 0x1000 0xF065).i.toNat + (0 : RegIx).val ∧
    Runs (at_ 0x1000 0xF065) (.loadRegs 0) := ⟨by decide, runs_sound (by decide)⟩
/-- V0 and V1 stored at 0; in `u` another byte of memory, outside them, has changed. -/
theorem witness_StoreThenLoadRoundTrip : ∃ t u, (two 0xAB 0xCD).mem.wf = true ∧ exec (.storeRegs 1) (two 0xAB 0xCD) = .next t ∧
    u.i = (two 0xAB 0xCD).i ∧ (∀ j ≤ (1 : RegIx).val, readByte u.mem ((two 0xAB 0xCD).i.toNat + j) = readByte t.mem ((two 0xAB 0xCD).i.toNat + j)) ∧
    ¬ SameMemory t u := by
  obtain ⟨t, h, hp⟩ := next_of_after (r := exec (.storeRegs 1) (two 0xAB 0xCD))
    (p := fun t => t.i == 0 && decide (∀ j ≤ (1 : RegIx).val, readByte (writeByte t.mem 2 1) j = readByte t.mem j) &&
      (readByte (writeByte t.mem 2 1) 2 != readByte t.mem 2)) (by decide)
  simp only [Bool.and_eq_true, decide_eq_true_eq, beq_iff_eq, bne_iff_ne] at hp
  exact ⟨t, t.setMem (writeByte t.mem 2 1), by decide, h, hp.1.1, fun j hj => by
    rw [show (two 0xAB 0xCD).i.toNat + j = j from Nat.zero_add j]; exact hp.1.2 j hj, fun e => hp.2 (e 2)⟩
theorem witness_StoredWordIsFetched : (State.reset.setI 0xFF0).mem.wf = true ∧
    (State.reset.setI 0xFF0).i.toNat + (0xF : RegIx).val ≤ 0xFFF ∧ (0xF : RegIx).val = (0xE : RegIx).val + 1 ∧
    (State.reset.setI 0xFFD).mem.wf = true ∧ (State.reset.setI 0xFFD).i.toNat + 2 ≤ 0xFFF := by decide
theorem witness_DrawXorsSprite : 15 ≤ 15 ∧ (at_ 0xFF1 0xD01F).i.toNat + 15 ≤ 0x1000 := by decide
theorem witness_DrawXorsSprite_no_row : (0 : Nat) ≤ 15 ∧ (0 = 0 ∨ (at_ 0xFFFF 0xD010).i.toNat + 0 ≤ 0x1000) := by decide
theorem witness_DrawXorsSprite_faults : 15 ≤ 15 ∧ 15 ≠ 0 ∧ 0x1000 < (at_ 0xFF2 0xD01F).i.toNat + 15 ∧
    Runs (at_ 0xFF2 0xD01F) (.drw 0 1 15) := ⟨by decide, by decide, by decide, runs_sound (by decide)⟩
/-- The sprite over one lit pixel, at the wrapped column 0 of row 31: covered there, not covered two columns on. -/
def overLit : State := sprite.paint (togglePixel blankFb 0 31)
theorem witness_DrawXorsSprite_covers : Covers overLit (overLit.reg 0) (overLit.reg 1) 2 0 31 ∧ pixel overLit.fb 0 31 = true ∧
    ¬ Covers overLit (overLit.reg 0) (overLit.reg 1) 2 2 31 :=
  ⟨⟨0, 2, by decide, by decide, by decide, by decide, by decide⟩, by decide,
    fun h => absurd ((mem_spritePixels_iff_covers ..).2 h) (by decide)⟩
theorem witness_DrawTwiceRestores : ∃ t, exec (.drw 0 1 2) sprite = .next t ∧ t.reg 0 = sprite.reg 0 ∧ t.reg 1 = sprite.reg 1 ∧
    pixel sprite.fb 62 31 = false ∧ pixel t.fb 62 31 = true := by
  obtain ⟨t, h, hp⟩ := next_of_after (r := exec (.drw 0 1 2) sprite)
    (p := fun t => t.reg 0 == sprite.reg 0 && t.reg 1 == sprite.reg 1 && pixel t.fb 62 31) (by decide)
  simp only [Bool.and_eq_true, beq_iff_eq] at hp
  exact ⟨t, h, hp.1.1, hp.1.2, by decide, hp.2⟩
theorem witness_KeySkips : ((two 0x0F 0).reg 0).toNat ≤ 0x0F ∧ 0x0F < ((two 0x10 0).reg 0).toNat := by decide
theorem witness_KeyWait : State.keys { State.reset with keys := 0x8000 } = 0x8000 ∧ (0x8000#16).getLsbD 15 = true ∧
    (∀ j < 15, (0x8000#16).getLsbD j = false) ∧ ∀ k < 16, State.reset.keys.getLsbD k = false := by decide
/-- F015 F107 in memory: the word after the one that sets DT reads it. -/
def readBack : State := { two 7 0 with mem := [(0x200, 0xF0), (0x201, 0x15), (0x202, 0xF1), (0x203, 0x07)] }
theorem witness_TimerReadBackAfterTicks : ∃ t, exec (.ldDtVx 0) readBack = .next t ∧ Runs t (.ldVxDt 1) := by
  obtain ⟨t, h, hp⟩ := next_of_after (r := exec (.ldDtVx 0) readBack) (p := fun t => runs t (.ldVxDt 1)) (by decide)
  exact ⟨t, h, runs_sound hp⟩
theorem witness_NoStepAfterFault : (State.reset.recordFault (.stackUnderflow 0x200)).fault = some (.stackUnderflow 0x200) := rfl
theorem witness_FaultsArePreciseAndSticky : (State.reset.withFetchWord 16 0x00EE).fault = none ∧
    step (State.reset.withFetchWord 16 0x00EE) = .fault (.stackUnderflow 0x200) := ⟨rfl, fault_of_faults (by decide)⟩

/-- Each event of the statement, at the boundary of its range. -/
theorem witness_OnlyTheseEventsFault :
    faults (step (State.reset.setPc 0xFFF)) (.memoryOutOfBounds 0x1000 .fetch) ∧
    faults (step ((State.reset.setStack (List.replicate 16 0x200)).withFetchWord 16 0x2300)) (.stackOverflow 0x200) ∧
    faults (step (at_ 0 0x00EE)) (.stackUnderflow 0x200) ∧
    faults (step (at_ 0x1000 0xD011)) (.memoryOutOfBounds 0x1000 .read) ∧
    faults (step (at_ 0xFFE 0xF033)) (.memoryOutOfBounds 0x1000 .write) ∧
    faults (step (at_ 0xFFF 0xF155)) (.memoryOutOfBounds 0x1000 .write) ∧
    faults (step (at_ 0xFFF 0xF165)) (.memoryOutOfBounds 0x1000 .read) ∧
    faults (step ((State.reset.setReg 0 0x10).withFetchWord 16 0xE09E)) (.keyIndexOutOfRange 0x10) ∧
    faults (step ((State.reset.setReg 0 0x10).withFetchWord 16 0xE0A1)) (.keyIndexOutOfRange 0x10) := by decide

/-- The invariant of a waiting state, and a step from it. -/
theorem witness_StepKeepsInvariant : Invariant (waiting 0x0080) ∧ ∃ t, step (waiting 0x0080) = .next t := by
  refine ⟨⟨by decide, by simp [StackFits, waiting, State.reset, State.withFetchWord, State.placeWord],
    by simp [ReturnsFetched, waiting, State.reset, State.withFetchWord, State.placeWord], ?_, ?_⟩, _, rfl⟩
  · show (0x200#16).toNat ≤ _; decide
  · intro x h
    cases h
    rfl
theorem witness_ActionKeepsInvariant : Invariant (waiting 0x0080) := witness_StepKeepsInvariant.1
theorem witness_OnlyKeyWaitChangesMode_enters : Runs { State.reset.withFetchWord 16 0xF20A with inputs := [press 0 0] } (.ldVxK 2) ∧
    ∀ k < 16, (State.nextInput { State.reset.withFetchWord 16 0xF20A with inputs := [press 0 0] }).keys.getLsbD k = false :=
  ⟨runs_sound (by decide), by decide⟩
theorem witness_OnlyKeyWaitChangesMode_leaves : (waiting 0x0080).fault = none ∧ (waiting 0x0080).mode = .awaitingKey 2 ∧
    (waiting 0x0080).nextInput.keys.getLsbD 7 = true ∧
    after (step (waiting 0x0080)) (fun t => t.mode != (waiting 0x0080).mode) = true := by decide
theorem witness_FlagRegisterWriters : after (exec (.addReg 0 1) (two 0xFF 1)) (fun t => t.reg 0xF != (two 0xFF 1).reg 0xF) ∧
    after (exec (.ldImm 0xF 1) State.reset) (fun t => t.reg 0xF != State.reset.reg 0xF) ∧
    after (exec (.ldReg 0xF 0) (two 1 0)) (fun t => t.reg 0xF != (two 1 0).reg 0xF) ∧
    after (exec (.loadRegs 0xF) State.reset) (fun t => t.reg 0xF != State.reset.reg 0xF) ∧
    after (exec (.ldVxDt 0xF) (State.reset.setDt 1)) (fun t => t.reg 0xF != State.reset.reg 0xF) ∧
    after (exec (.ldVxK 0xF) { State.reset with keys := 2 }) (fun t => t.reg 0xF != State.reset.reg 0xF) ∧
    after (exec (.drw 0 1 2) (sprite.paint (togglePixel blankFb 62 31))) (fun t => t.reg 0xF != sprite.reg 0xF) := by decide
theorem witness_StackWriters : after (exec (.call 0) State.reset) (fun t => t.stack != State.reset.stack) ∧
    after (exec .ret (State.reset.setStack [0])) (fun t => t.stack != [0]) := by decide
theorem witness_IndexWriters : after (exec (.ldI 1) State.reset) (fun t => t.i != State.reset.i) ∧
    after (exec (.addI 0) (two 1 0)) (fun t => t.i != (two 1 0).i) ∧
    after (exec (.ldF 0) (two 1 0)) (fun t => t.i != (two 1 0).i) := by decide
theorem witness_TimerWriters : after (exec (.ldDtVx 0) (two 1 0)) (fun t => t.dt != (two 1 0).dt) ∧
    after (exec (.ldStVx 0) (two 1 0)) (fun t => t.st != (two 1 0).st) := by decide
theorem witness_MemoryWriters : ∃ t, exec (.ldB 0) State.reset = .next t ∧ ¬ SameMemory State.reset t := by
  obtain ⟨t, h, hp⟩ := next_of_after (r := exec (.ldB 0) State.reset)
    (p := fun t => readByte t.mem 0 != readByte State.reset.mem 0) (by decide)
  exact ⟨t, h, fun e => by simp [e 0] at hp⟩
theorem witness_ScreenWriters : ∃ t, exec .cls State.reset = .next t ∧ ¬ SameScreen State.reset t :=
  ⟨_, rfl, fun e => by cases e.2⟩
theorem witness_IdlePointStays : Idle (State.reset.withFetchWord 16 0x1200) := ⟨0x200, runs_sound (by decide), rfl⟩
theorem witness_EncodingByRow : 15 ≤ 15 ∧ (encode (.drw 0xF 0xF 15)).toNat = 0xDFFF := by decide

end Sys2Proof.Tests
end

section
/-! SUPPORT. What a completed instruction can do, said once: which part of the state it writes, and which instruction it
then is. The writers of each part of the state and the machine's invariant are read off it. -/
namespace Sys2Proof.Machine

/-- `x` is the destination that a register-writing instruction names (10_state R33). -/
def NamesDest (i : Instr) (x : RegIx) : Prop :=
  (∃ kk, i = .ldImm x kk ∨ i = .addImm x kk ∨ i = .rnd x kk) ∨
  (∃ y, i = .ldReg x y ∨ i = .orReg x y ∨ i = .andReg x y ∨ i = .xorReg x y) ∨ i = .ldVxDt x ∨ i = .ldVxK x

/-- The instructions of the ALU that write a flag to VF (10_state R32). -/
def WritesFlag (i : Instr) : Prop :=
  ∃ x y, i = .addReg x y ∨ i = .subReg x y ∨ i = .shr x y ∨ i = .subnReg x y ∨ i = .shl x y

/-- What a completed instruction can leave, by the part of the state it writes and the instructions that write it; a move
of pc alone names none. The values written are left open where no frame and no bound turns on them. -/
inductive Effect (s : State) (i : Instr) : State → Prop where
  | move {w : Word} (target : w = s.pc + 2 ∨ w = s.pc + 4 ∨ w.toNat ≤ 0x10FE) : Effect s i (s.setPc w)
  | reg {x : RegIx} {b : Byte} (hi : NamesDest i x) : Effect s i (s.finishReg x b)
  | flag {x : RegIx} {res fl : Byte} (hi : WritesFlag i) : Effect s i (s.finishFlag x res fl)
  | load {x : RegIx} (hi : i = .loadRegs x) :
    Effect s i (s.setV (setRegsFrom s.v 0 (readBytes s.mem s.i.toNat (x.val + 1)))).advance
  | index {w : Word} (hi : (∃ nnn, i = .ldI nnn) ∨ ∃ x, i = .addI x ∨ i = .ldF x) : Effect s i (s.finishI w)
  | store {bytes : List Byte} (hi : ∃ x, i = .ldB x ∨ i = .storeRegs x) (fits : s.i.toNat + bytes.length ≤ 4096) :
    Effect s i (s.setMem (writeBytes s.mem s.i.toNat bytes)).advance
  | delay {b : Byte} (hi : ∃ x, i = .ldDtVx x) : Effect s i (s.setDt b).advance
  | sound {b : Byte} (hi : ∃ x, i = .ldStVx x) : Effect s i (s.setSt b).advance
  | clear (hi : i = .cls) : Effect s i (s.paint blankFb).advance
  | draw {fb : Framebuffer} {fl : Byte} (hi : ∃ x y n, i = .drw x y n) : Effect s i ((s.paint fb).setReg vf fl).advance
  | ret {below : List Word} {u : Word} (hi : i = .ret) (top : s.stack = below ++ [u]) :
    Effect s i ((s.setStack below).setPc (u + 2))
  | call {nnn : BitVec 12} (hi : i = .call nnn) (room : s.stack.length < 16) :
    Effect s i ((s.setStack (s.stack ++ [s.pc])).setPc (addrOperand nnn))
  | wait {x : RegIx} (hi : i = .ldVxK x) (noKey : s.leastKey = none) : Effect s i (s.setMode (.awaitingKey x))

theorem addrOperand_le (nnn : BitVec 12) : (addrOperand nnn).toNat ≤ 0xFFF := by
  rw [addrOperand_toNat]; omega

/-- The largest target an instruction names: 0xFFF + 0xFF (41_control_flow R158). -/
theorem offsetOperand_le (s : State) (nnn : BitVec 12) : (offsetOperand s nnn).toNat ≤ 0x10FE := by
  have := nnn.isLt
  have := (s.reg 0).isLt
  rw [offsetOperand, BitVec.toNat_add, addrOperand_toNat, zext16_toNat]; omega

/-- A skip goes 2 or 4 on. -/
theorem effect_skipIf (s : State) (i : Instr) (c : Bool) : Effect s i (s.skipIf c) := by
  cases c
  · exact .move (.inl rfl)
  · exact .move (.inr (.inl rfl))

theorem effect_skipOnKey {s t : State} {x : RegIx} {want : Bool} (i : Instr) (h : skipOnKey x want s = .next t) :
    Effect s i t := by
  rw [skipOnKey_eq] at h
  split at h <;> cases h
  exact effect_skipIf ..

theorem effect_storeAtIndex {s t : State} {i : Instr} {bytes : List Byte} (hi : ∃ x, i = .ldB x ∨ i = .storeRegs x)
    (h0 : bytes.length ≠ 0) (h : storeAtIndex bytes s = .next t) : Effect s i t := by
  rw [storeAtIndex_eq bytes s h0] at h
  split at h <;> cases h
  exact .store hi ‹_›

theorem effect_ret {s t : State} (h : execRet s = .next t) : Effect s .ret t := by
  obtain hs | ⟨below, u, hs⟩ := s.stack.eq_nil_or_concat'
  · rw [execRet_nil hs] at h; cases h
  · rw [execRet_append hs] at h; cases h
    exact .ret rfl hs

theorem effect_awaitKey (s : State) (x : RegIx) : Effect s (.ldVxK x) (s.awaitKey x) := by
  unfold State.awaitKey
  split
  · exact .reg (.inr (.inr (.inr rfl)))
  · exact .wait rfl ‹_›

/-- What a completed instruction can do, said once. -/
theorem effect_of_exec {i : Instr} {s t : State} (h : exec i s = .next t) : Effect s i t := by
  cases i with
  | cls => cases h; exact .clear rfl
  | ret => exact effect_ret h
  | jp nnn => cases h; exact .move (.inr (.inr ((addrOperand_le nnn).trans (by decide))))
  | call nnn =>
    rw [exec, execCall_eq] at h
    split at h <;> cases h
    exact .call rfl ‹_›
  | jpV0 nnn => cases h; exact .move (.inr (.inr (offsetOperand_le s nnn)))
  | seImm | sneImm | seReg | sneReg => cases h; exact effect_skipIf ..
  | ldImm | addImm | rnd | ldReg | orReg | andReg | xorReg | ldVxDt => cases h; exact .reg (by simp [NamesDest])
  | addReg | subReg | shr | subnReg | shl => cases h; exact .flag (by simp [WritesFlag])
  | ldI | addI | ldF => cases h; exact .index (by simp)
  | drw x y n =>
    rw [exec, execDrw_eq] at h
    split at h <;> cases h
    exact .draw ⟨x, y, n, rfl⟩
  | skp | sknp => exact effect_skipOnKey _ h
  | ldVxK x => cases h; exact effect_awaitKey s x
  | ldDtVx x => cases h; exact .delay ⟨x, rfl⟩
  | ldStVx x => cases h; exact .sound ⟨x, rfl⟩
  | ldB x => exact effect_storeAtIndex ⟨x, .inl rfl⟩ (by simp [bcdDigits]) h
  | storeRegs x => exact effect_storeAtIndex ⟨x, .inr rfl⟩ (by simp) h
  | loadRegs x =>
    rw [exec, execLoadRegs_eq] at h
    split at h <;> cases h
    exact .load rfl

end Sys2Proof.Machine
end

section
/-! SUPPORT. A word that decodes is the word of its instruction (30_encoding R116), family by family. -/
namespace Sys2Proof

theorem formNnn_of_fields {w : Word} {f : BitVec 4} (hf : fieldFamily w = f) : formNnn f (fieldNnn w) = w :=
  hf ▸ formNnn_fields w

theorem formXkk_of_fields {w : Word} {f : BitVec 4} {kk : Byte} (hf : fieldFamily w = f) (hk : fieldKk w = kk) :
    formXkk f (fieldX w) kk = w := by
  rw [← hf, ← hk, formXkk_fields]

theorem formXyn_of_fields {w : Word} {f n : BitVec 4} (hf : fieldFamily w = f) (hn : fieldN w = n) :
    formXyn f (fieldX w) (fieldY w) n = w := by
  rw [← hf, ← hn, formXyn_fields]

theorem encode_of_decodeFamily0 {w : Word} {i : Instr} (h : decodeFamily0 w = .instr i) : encode i = w := by
  unfold decodeFamily0 at h
  split at h
  · cases h; exact Eq.symm ‹_›
  · split at h <;> cases h
    exact Eq.symm ‹_›

theorem encode_of_decodeFamily5 {w : Word} {i : Instr} (hf : fieldFamily w = 0x5#4)
    (h : decodeFamily5 w = .instr i) : encode i = w := by
  unfold decodeFamily5 at h
  split at h <;> cases h
  exact formXyn_of_fields hf ‹_›

theorem encode_of_decodeFamily8 {w : Word} {i : Instr} (hf : fieldFamily w = 0x8#4)
    (h : decodeFamily8 w = .instr i) : encode i = w := by
  unfold decodeFamily8 at h
  split at h <;> cases h
  all_goals exact formXyn_of_fields hf ‹_›

theorem encode_of_decodeFamily9 {w : Word} {i : Instr} (hf : fieldFamily w = 0x9#4)
    (h : decodeFamily9 w = .instr i) : encode i = w := by
  unfold decodeFamily9 at h
  split at h <;> cases h
  exact formXyn_of_fields hf ‹_›

theorem encode_of_decodeFamilyE {w : Word} {i : Instr} (hf : fieldFamily w = 0xE#4)
    (h : decodeFamilyE w = .instr i) : encode i = w := by
  unfold decodeFamilyE at h
  split at h <;> cases h
  all_goals exact formXkk_of_fields hf ‹_›

theorem encode_of_decodeFamilyF {w : Word} {i : Instr} (hf : fieldFamily w = 0xF#4)
    (h : decodeFamilyF w = .instr i) : encode i = w := by
  unfold decodeFamilyF at h
  split at h <;> cases h
  all_goals exact formXkk_of_fields hf ‹_›

/-- A word that decodes to an instruction is that instruction's word (30_encoding R116). -/
theorem encode_of_decodeWord {w : Word} {i : Instr} (h : decodeWord w = .instr i) : encode i = w := by
  unfold decodeWord at h
  split at h <;> rename_i hf
  · exact encode_of_decodeFamily0 h
  · cases h; exact formNnn_of_fields hf
  · cases h; exact formNnn_of_fields hf
  · cases h; exact formXkk_of_fields hf rfl
  · cases h; exact formXkk_of_fields hf rfl
  · exact encode_of_decodeFamily5 hf h
  · cases h; exact formXkk_of_fields hf rfl
  · cases h; exact formXkk_of_fields hf rfl
  · exact encode_of_decodeFamily8 hf h
  · exact encode_of_decodeFamily9 hf h
  · cases h; exact formNnn_of_fields hf
  · cases h; exact formNnn_of_fields hf
  · cases h; exact formXkk_of_fields hf rfl
  · cases h; exact formXyn_of_fields hf (by simp)
  · exact encode_of_decodeFamilyE hf h
  · exact encode_of_decodeFamilyF hf h
  · cases h

end Sys2Proof

namespace Sys2Proof.Machine

/-- The step that runs an instruction fetched its own word … -/
theorem fetch_of_runs {s : State} {i : Instr} (h : Runs s i) : fetch s = .ok (encode i) := by
  obtain ⟨-, w, hw, hd⟩ := runs_iff.1 h
  rw [hw, encode_of_decodeWord hd]

/-- … and executes it in the state the environment leaves (40_engine R130 to R133). -/
theorem step_of_runs {s : State} {i : Instr} (h : Runs s i) : step s = exec i s.arrive := by
  obtain ⟨hf, w, hw, hd⟩ := runs_iff.1 h
  rw [step_eq hf.2, engineStep_running (s := s.arrive) hf.1, runInstruction_ok (s := s.arrive) hw, hd]
  rfl

end Sys2Proof.Machine
end

section
/-! PROOFS. The machine's invariant: kept by what an instruction leaves, by a wait, by the environment, and true after
reset and load (10_state R36, R37, R45, R46, R49; 40_engine R139). -/
namespace Sys2Proof.Machine

/-- In Running nothing is asked of the word at pc. -/
theorem waitsAtKeyWait_of_running {t : State} (h : t.mode = .running) : WaitsAtKeyWait t :=
  fun _ hx => nomatch h.symm.trans hx

/-- The invariant speaks of memory, the stack, pc and the mode alone. -/
theorem Invariant.congr {s t : State} (hs : Invariant s) (hmem : t.mem = s.mem) (hstack : t.stack = s.stack)
    (hpc : t.pc = s.pc) (hmode : t.mode = s.mode) : Invariant t where
  memory := hmem ▸ hs.memory
  stack := by rw [StackFits, hstack]; exact hs.stack
  returns := by rw [ReturnsFetched, hstack]; exact hs.returns
  pc := by rw [PcBounded, hpc]; exact hs.pc
  waits := fun x hx => by
    have hf : fetch t = fetch s := by rw [fetch_eq, fetch_eq, hmem, hpc]
    rw [hf, hs.waits x (hmode ▸ hx)]

theorem Invariant.arrive {s : State} (hs : Invariant s) : Invariant s.arrive := hs.congr rfl rfl rfl rfl

/-- Where memory and the stack are kept and the engine runs on, pc alone is to be bounded. -/
theorem Invariant.movePc {s t : State} (hs : Invariant s) (hmem : t.mem = s.mem) (hstack : t.stack = s.stack)
    (hmode : t.mode = .running) (hpc : t.pc.toNat ≤ 0x10FE) : Invariant t where
  memory := hmem ▸ hs.memory
  stack := by rw [StackFits, hstack]; exact hs.stack
  returns := by rw [ReturnsFetched, hstack]; exact hs.returns
  pc := hpc
  waits := waitsAtKeyWait_of_running hmode

/-- From an address an instruction was fetched at, pc goes on without a wrap (10_state R36). -/
theorem pc_add_le {p k : Word} (hp : p.toNat ≤ 0xFFE) (hk : k.toNat ≤ 4) : (p + k).toNat ≤ 0x10FE := by
  rw [BitVec.toNat_add]; omega

/-- What the instruction at pc leaves meets the invariant. -/
theorem Invariant.effect {s t : State} {i : Instr} (hs : Invariant s) (hrun : s.mode = .running)
    (hfetch : fetch s = .ok (encode i)) (h : Effect s i t) : Invariant t := by
  have hpc : s.pc.toNat ≤ 0xFFE := by have := fetch_ok_pc hfetch; omega
  have hnext : (s.pc + 2).toNat ≤ 0x10FE := pc_add_le hpc (by decide)
  cases h with
  | move target =>
    refine hs.movePc rfl rfl hrun ?_
    obtain rfl | rfl | hw := target
    · exact hnext
    · exact pc_add_le hpc (by decide)
    · exact hw
  | reg | flag | load | index | delay | sound | clear | draw => exact hs.movePc rfl rfl hrun hnext
  | store _ fits =>
    exact ⟨writeBytes_wf _ hs.memory fits, hs.stack, hs.returns, hnext, waitsAtKeyWait_of_running hrun⟩
  | ret _ top =>
    have hlen := hs.stack
    have hret := hs.returns
    rw [StackFits, top, List.length_append] at hlen
    rw [ReturnsFetched, top, List.forall_mem_append, List.forall_mem_singleton] at hret
    obtain ⟨hbelow, htop⟩ := hret
    exact ⟨hs.memory, (Nat.le_add_right ..).trans hlen, hbelow, pc_add_le htop (by decide), waitsAtKeyWait_of_running hrun⟩
  | @call nnn _ room =>
    have hlen : (s.stack ++ [s.pc]).length ≤ 16 := by rw [List.length_append]; exact room
    have hret : ∀ u ∈ s.stack ++ [s.pc], u.toNat ≤ 0xFFE :=
      List.forall_mem_append.2 ⟨hs.returns, List.forall_mem_singleton.2 hpc⟩
    exact ⟨hs.memory, hlen, hret, (addrOperand_le nnn).trans (by decide), waitsAtKeyWait_of_running hrun⟩
  | wait hi =>
    refine ⟨hs.memory, hs.stack, hs.returns, hs.pc, fun x hx => ?_⟩
    cases hx
    exact hi ▸ hfetch

/-- A wait, resolved or not, meets the invariant: a waiting pc holds an Fx0A. -/
theorem Invariant.resolveWait {s : State} {x : RegIx} (hs : Invariant s) (hm : s.mode = .awaitingKey x) :
    Invariant (resolveWait x s) := by
  cases hk : s.leastKey with
  | none => rwa [resolveWait_none hk]
  | some k =>
    have hpc := fetch_ok_pc (hs.waits x hm)
    rw [resolveWait_some hk]
    exact hs.movePc rfl rfl rfl (pc_add_le (p := s.pc) (by omega) (by decide))

/-- Settles O48, case by case on what a step can do. -/
theorem stepKeepsInvariant : Obligations.StepKeepsInvariant := by
  unfold Obligations.StepKeepsInvariant
  intro s t hs h
  obtain ⟨x, hm, hx⟩ | ⟨-, -, hx⟩ | ⟨i, hr, hx⟩ | ⟨w, u, hf, hw, -, hx⟩ := step_cases (fault_none_of_next h) <;>
    rw [h] at hx
  · cases hx
    exact hs.arrive.resolveWait hm
  · cases hx
  · exact hs.arrive.effect hr.1.1 (fetch_of_runs hr) (effect_of_exec hx.symm)
  · cases hx
    have hpc := fetch_ok_pc hw
    exact hs.movePc rfl rfl hf.1 (pc_add_le (p := s.pc) (by omega) (by decide))

/-- The state after a call of `step` is the one before it, the step's next state, or what the environment left, with a
fault recorded or not. -/
theorem afterStep_cases (s : State) :
    s.afterStep = s ∨ step s = .next s.afterStep ∨ (∃ f, s.afterStep = s.arrive.recordFault f) ∨
      s.afterStep = s.arrive := by
  unfold State.afterStep
  split
  · exact .inl rfl
  · cases hs : step s with
    | next t => exact .inr (.inl rfl)
    | fault f => exact .inr (.inr (.inl ⟨f, rfl⟩))
    | refused r => exact .inr (.inr (.inr rfl))

theorem Invariant.afterStep {s : State} (hs : Invariant s) : Invariant s.afterStep := by
  obtain h | h | ⟨f, h⟩ | h := afterStep_cases s
  · rwa [h]
  · exact stepKeepsInvariant s _ hs h
  · rw [h]; exact hs.congr rfl rfl rfl rfl
  · rw [h]; exact hs.arrive

/-- Settles O49: a step by O48, and the other actions touch only DT, ST or `dirty`. -/
theorem actionKeepsInvariant : Obligations.ActionKeepsInvariant := by
  unfold Obligations.ActionKeepsInvariant
  intro s a hs
  cases a with
  | step e => exact Invariant.afterStep (hs.congr rfl rfl rfl rfl)
  | tickDelay | tickSound | takeDirty => exact hs.congr rfl rfl rfl rfl

/-- The state after reset meets the invariant, whatever memory in canonical form is loaded. -/
theorem invariant_reset_setMem {m : Memory} (hm : m.wf = true) : Invariant (State.reset.setMem m) where
  memory := hm
  stack := Nat.zero_le _
  returns := List.forall_mem_nil _
  pc := by show (0x200#16).toNat ≤ 0x10FE; decide
  waits := waitsAtKeyWait_of_running rfl

/-- Settles O50: the loaders keep memory's canonical form and write nothing else. -/
theorem resetHasInvariant : Obligations.ResetHasInvariant := by
  unfold Obligations.ResetHasInvariant
  refine ⟨invariant_reset_setMem reset_mem_wf, fun fontBytes image s hfont hboot => ?_⟩
  have hwf := loadProgram_wf (loadFont_wf reset_mem_wf hfont.le) hboot
  rw [State.boot, State.loadProgram] at hboot
  split at hboot <;> cases hboot
  exact invariant_reset_setMem hwf

end Sys2Proof.Machine
end

section
/-! PROOFS. The writers of each part of the state (10_state R32 to R43): each instruction that changes it is one that
`Effect` lets write it. -/
namespace Sys2Proof.Machine

/-- Settles O51: a wait is entered by the effect of Fx0A alone, and left where the step finds a key. -/
theorem onlyKeyWaitChangesMode : Obligations.OnlyKeyWaitChangesMode := by
  unfold Obligations.OnlyKeyWaitChangesMode
  refine ⟨fun s t h hne => ?_, fun s x hr hk => ?_, fun s x k hf hm hk hp => ?_⟩
  · obtain ⟨x, hm, hx⟩ | ⟨-, -, hx⟩ | ⟨i, hr, hx⟩ | ⟨w, u, -, -, -, hx⟩ := step_cases (fault_none_of_next h) <;>
      rw [h] at hx
    · cases hx
      cases hk : s.arrive.leastKey with
      | none => rw [resolveWait_none hk] at hne; exact absurd rfl hne
      | some k =>
        obtain ⟨hk16, hp, -⟩ := leastKey_some.1 hk
        rw [resolveWait_some hk]
        exact .inr ⟨x, k, hm, hk16, hp, rfl⟩
    · cases hx
    · cases effect_of_exec hx.symm with
      | wait hi noKey => exact .inl ⟨_, hi ▸ hr, leastKey_none.1 noKey, rfl⟩
      | _ => exact absurd rfl hne
    · cases hx; exact absurd rfl hne
  · have hnone : s.arrive.leastKey = none := leastKey_none.2 hk
    exact ⟨_, step_of_runs hr, by rw [State.awaitKey, hnone]; rfl⟩
  · have hstep : step s = _ := (step_eq hf).trans (engineStep_awaiting (s := s.arrive) hm)
    cases hl : s.arrive.leastKey with
    | none => cases hp.symm.trans (leastKey_none.1 hl k hk)
    | some j => exact ⟨_, hstep, by rw [resolveWait_some hl]; rfl⟩

/-- Settles O52: the register that a result or a load changes is its destination, here VF. -/
theorem flagRegisterWriters : Obligations.FlagRegisterWriters := by
  unfold Obligations.FlagRegisterWriters
  intro i s t h hne
  cases effect_of_exec h with
  | @reg x _ hi =>
    obtain rfl : 0xF = x := by
      by_contra hx
      exact hne ((reg_finishReg ..).trans (if_neg hx))
    exact .inr (.inr (hi.imp_right (.imp_right (.imp_right .inl))))
  | flag hi => exact .inl hi
  | draw hi => exact .inr (.inl hi)
  | @load x hi =>
    have hx : (0xF : RegIx).val ≤ x.val := by
      by_contra hx
      exact hne ((reg_setV_setRegsFrom ..).trans (if_neg hx))
    obtain rfl : x = 0xF := Fin.ext (Nat.le_antisymm (Nat.le_of_lt_succ x.isLt) hx)
    simp [hi]
  | _ => exact absurd rfl hne

/-- Settles O53: the effects that write the stack are a return's and a call's. -/
theorem stackWriters : Obligations.StackWriters := by
  unfold Obligations.StackWriters
  intro i s t h hne
  cases effect_of_exec h with
  | ret hi => exact .inl hi
  | call hi => exact .inr ⟨_, hi⟩
  | _ => exact absurd rfl hne

/-- Settles O54: the one effect that writes I names its three instructions. -/
theorem indexWriters : Obligations.IndexWriters := by
  unfold Obligations.IndexWriters
  intro i s t h hne
  cases effect_of_exec h with
  | index hi => exact hi
  | _ => exact absurd rfl hne

/-- Settles O55: each timer has one effect that writes it. -/
theorem timerWriters : Obligations.TimerWriters := by
  unfold Obligations.TimerWriters
  intro i s t h
  cases effect_of_exec h with
  | delay hi => exact ⟨fun _ => hi, absurd rfl⟩
  | sound hi => exact ⟨absurd rfl, fun _ => hi⟩
  | _ => exact ⟨absurd rfl, absurd rfl⟩

/-- Settles O57: the effects that write the framebuffer set `dirty`. -/
theorem screenWriters : Obligations.ScreenWriters := by
  unfold Obligations.ScreenWriters
  intro i s t h hne
  cases effect_of_exec h with
  | clear hi => exact ⟨.inl hi, rfl⟩
  | draw hi => exact ⟨.inr hi, rfl⟩
  | _ => exact absurd ⟨fun _ _ => rfl, rfl⟩ hne

end Sys2Proof.Machine
end

section
/-! PROOFS. Reset and load (10_state R49, 70_reset_and_hazards R330 to R334). -/
namespace Sys2Proof.Machine

/-- Above the font an address that memory does not list reads as 0x00 (10_state R49). -/
theorem unlistedByte_above {a : Nat} (h : 80 ≤ a) : unlistedByte a = 0 := by
  have hlen : font.length = 80 := rfl
  rw [unlistedByte, Config.fontBase, List.getElem?_eq_none (by omega), Option.getD_none]

/-- Memory after the font's load: the font's bytes, and 0x00 above them (70_reset_and_hazards R331). -/
theorem readByte_loadFont {fontBytes : List Byte} (hfont : fontBytes.length = 80) (c : Nat) :
    readByte (loadFont [] fontBytes) c = if h : c < fontBytes.length then fontBytes[c] else 0 := by
  rw [loadFont, Config.fontBase, readByte_writeBytes fontBytes c rfl (by omega)]
  by_cases h : c < fontBytes.length
  · rw [dif_pos h, dif_pos (by omega)]; rfl
  · rw [dif_neg h, dif_neg (by omega), readByte, unlistedByte_above (by omega)]

theorem boot_eq_some {fontBytes image : List Byte} (h : image.length ≤ 3584) :
    State.boot fontBytes image =
      some (State.reset.setMem (writeBytes (loadFont [] fontBytes) 0x200 image)) := if_pos h

theorem boot_eq_none {fontBytes image : List Byte} (h : 3584 < image.length) : State.boot fontBytes image = none :=
  if_neg (Nat.not_le.2 h)

/-- Settles O5, field by field. -/
theorem resetValues : Obligations.ResetValues := by
  unfold Obligations.ResetValues
  have hreg : ∀ k, State.reset.reg k = 0 := fun k => Vector.getElem_replicate k.isLt
  exact ⟨rfl, hreg, rfl, rfl, rfl, rfl, pixel_blankFb, rfl, rfl, rfl⟩

/-- Settles O7: loading writes memory alone, the font first and then the image, which lies above it. -/
theorem bootLoadsFontAndImage : Obligations.BootLoadsFontAndImage := by
  unfold Obligations.BootLoadsFontAndImage
  refine fun fontBytes image hfont => ⟨fun himage => ?_, boot_eq_none⟩
  have hwf : Memory.wf (loadFont [] fontBytes) = true := loadFont_wf rfl hfont.le
  have hread := fun c => readByte_writeBytes image (a := 0x200) c hwf (by omega)
  obtain ⟨hpc, hreg, hi, hstack, hdt, hst, hfb, hdirty, hmode, hfault⟩ := resetValues
  refine ⟨_, boot_eq_some himage, hpc, hreg, hi, hstack, hdt, hst, hfb, hdirty, hmode, hfault,
    writeBytes_wf image hwf (by omega), fun j hj => ?_, fun j hj => ?_, fun a ha hout => ?_⟩
  · rw [setMem_mem, hread, dif_neg (by omega), readByte_loadFont hfont, dif_pos hj]
  · rw [setMem_mem, hread, dif_pos (by omega)]
    simp only [Nat.add_sub_cancel_left]
  · rw [setMem_mem, hread, dif_neg (by omega), readByte_loadFont hfont, dif_neg (by omega)]

end Sys2Proof.Machine
end

section
/-! PROOFS. The environment around a step (10_state R55 to R60). -/
namespace Sys2Proof.Machine

/-- Settles O9: ticks in one go by `tickBy_toNat`, and every field that arrival does not name is kept. -/
theorem arrivalIsDriverActions : Obligations.ArrivalIsDriverActions := by
  unfold Obligations.ArrivalIsDriverActions
  intro s
  have hdirty : s.arrive.dirty = if s.nextInput.takesDirty then false else s.dirty := by
    rw [arrive_dirty]; cases s.nextInput.takesDirty <;> simp
  have hinput : ∀ e l, s.inputs = e :: l → s.nextInput = e := fun e l h => by rw [State.nextInput, h]
  exact ⟨tickBy_toNat .., tickBy_toNat .., hdirty, rfl, rfl, rfl, rfl, rfl, rfl, fun _ _ => rfl, rfl, rfl,
    fun _ _ => rfl, ⟨rfl, rfl⟩, fun _ => rfl, hinput⟩

/-- Settles O42: `take_dirty` writes `dirty` alone. -/
theorem takeDirtyAndSoundOn : Obligations.TakeDirtyAndSoundOn := by
  unfold Obligations.TakeDirtyAndSoundOn
  intro s
  have hframe : OnlyScreen (fun _ => False) s s.takeDirty.2 :=
    ⟨fun _ _ => rfl, rfl, rfl, ⟨rfl, rfl⟩, ⟨rfl, rfl⟩, fun _ => rfl, ⟨rfl, rfl, rfl, rfl, rfl⟩⟩
  exact ⟨rfl, rfl, rfl, fun _ _ => rfl, ⟨rfl, rfl⟩, hframe, bne_iff_ne⟩

end Sys2Proof.Machine
end

section
/-! PROOFS. Memory (20_memory R71 to R84): a fetch is big-endian, what a store at I wrote is fetched as written, and the
effect that writes memory names its two instructions. -/
namespace Sys2Proof.Machine

/-- The first byte of a word is its high one (20_memory R76). -/
theorem composeWord_toNat (hi lo : Byte) : (composeWord hi lo).toNat = 256 * hi.toNat + lo.toNat := by
  rw [composeWord, BitVec.toNat_append, ← Nat.shiftLeft_add_eq_or_of_lt lo.isLt, Nat.shiftLeft_eq]; omega

/-- Settles O10: both bytes at pc exist, so the fetch composes them. -/
theorem fetchIsBigEndian : Obligations.FetchIsBigEndian := by
  unfold Obligations.FetchIsBigEndian
  intro s h
  exact ⟨_, (fetch_eq s).trans (if_pos (by omega)), composeWord_toNat ..⟩

/-- Below the end of memory an address is I plus its offset, with no wrap (20_memory R72). -/
theorem index_add_toNat {i : Word} {j : Nat} (h : i.toNat + j ≤ 4096) :
    (i + BitVec.ofNat 16 j).toNat = i.toNat + j := by
  rw [BitVec.toNat_add, BitVec.toNat_ofNat]; omega

/-- A store at I of bytes that fit completes, and a fetch of any two neighbours among them composes them as they were
written (20_memory R84, 70_reset_and_hazards R342). -/
theorem fetch_after_storeAtIndex {s : State} {bytes : List Byte} (hm : s.mem.wf = true)
    (fits : s.i.toNat + bytes.length ≤ 4096) :
    ∃ t, storeAtIndex bytes s = .next t ∧ ∀ (j : Nat) (hj : j + 1 < bytes.length),
      fetch (t.setPc (s.i + BitVec.ofNat 16 j)) = .ok (composeWord bytes[j] bytes[j + 1]) := by
  refine ⟨(s.setMem (writeBytes s.mem s.i.toNat bytes)).advance, ?_, fun j hj => ?_⟩
  · rw [storeAtIndex, memBase, boundsFault_none.2 (.inr fits)]
  · have hpc := index_add_toNat (i := s.i) (j := j) (by omega)
    have hread : ∀ (k : Nat) (hk : k < bytes.length),
        readByte (writeBytes s.mem s.i.toNat bytes) (s.i.toNat + k) = bytes[k] := fun k hk => by
      rw [readByte_writeBytes bytes _ hm fits, dif_pos (by omega)]
      simp only [Nat.add_sub_cancel_left]
    rw [fetch_eq, setPc_pc, hpc, if_pos (by omega), setPc_mem, advance_mem, setMem_mem, hread, Nat.add_assoc, hread]

@[simp] theorem bcdDigits_length (b : Byte) : (bcdDigits b).length = 3 := rfl

/-- Settles O34: both instructions store at I, V0..Vx or the three digits of V[x]. -/
theorem storedWordIsFetched : Obligations.StoredWordIsFetched := by
  unfold Obligations.StoredWordIsFetched
  refine fun x s hm => ⟨fun h => ?_, fun h => ?_⟩
  · obtain ⟨t, hstore, hfetch⟩ := fetch_after_storeAtIndex (bytes := regsUpTo s x) hm
      (by rw [regsUpTo_length]; omega)
    refine ⟨t, hstore, fun j k hjk hk => ⟨_, hfetch j.val (by rw [regsUpTo_length]; omega), ?_⟩⟩
    have hnext : (⟨j.val + 1, hjk ▸ k.isLt⟩ : RegIx) = k := Fin.ext hjk.symm
    rw [composeWord_toNat, regsUpTo_getElem, regsUpTo_getElem, hnext]
  · obtain ⟨t, hstore, hfetch⟩ := fetch_after_storeAtIndex (bytes := bcdDigits (s.reg x)) hm
      (by rw [bcdDigits_length]; omega)
    have hlt := (s.reg x).isLt
    have hfirst := hfetch 0 (by rw [bcdDigits_length]; omega)
    rw [BitVec.add_zero] at hfirst
    refine ⟨t, _, _, hstore, hfirst, hfetch 1 (by rw [bcdDigits_length]; omega), ?_, ?_⟩ <;>
      simp only [composeWord_toNat, bcdDigits, List.getElem_cons_zero, List.getElem_cons_succ,
        BitVec.toNat_ofNat] <;>
      omega

/-- Settles O56: the one effect that writes memory is a store at I. -/
theorem memoryWriters : Obligations.MemoryWriters := by
  unfold Obligations.MemoryWriters
  intro i s t h hne
  cases effect_of_exec h with
  | store hi => exact hi
  | _ => exact absurd (fun _ => rfl) hne

end Sys2Proof.Machine
end

section
/-! PROOFS. The encoding (30_encoding R100 to R116): decode and encode are inverse, the unknown words, and each row of the
opcode map as a number. -/
namespace Sys2Proof

/-- DRW's height field holds every well-formed height (30_encoding R103). -/
theorem height_toNat {n : Nat} (h : n ≤ 15) : (BitVec.ofNat 4 n).toNat = n := by
  rw [BitVec.toNat_ofNat]; omega

/-- A well-formed instruction is what its word decodes to (30_encoding R116), format by format. -/
theorem decodeWord_encode {i : Instr} (h : i.wellFormed = true) : decodeWord (encode i) = .instr i := by
  cases i with
  | cls | ret => rfl
  | jp | call | ldI | jpV0 => simp [encode, decodeWord]
  | seImm | sneImm | ldImm | addImm | rnd => simp [encode, decodeWord]
  | seReg => simp [encode, decodeWord, decodeFamily5]
  | sneReg => simp [encode, decodeWord, decodeFamily9]
  | ldReg | orReg | andReg | xorReg | addReg | subReg | shr | subnReg | shl =>
    simp [encode, decodeWord, decodeFamily8]
  | drw x y n =>
    have hn : (BitVec.ofNat 4 n).toNat = n := height_toNat (of_decide_eq_true h)
    simp [encode, decodeWord, -BitVec.toNat_ofNat, hn]
  | skp | sknp => simp [encode, decodeWord, decodeFamilyE]
  | ldVxDt | ldVxK | ldDtVx | ldStVx | addI | ldF | ldB | storeRegs | loadRegs =>
    simp [encode, decodeWord, decodeFamilyF]

/-- A word's two bytes decode as the word, and the bytes after them are left. -/
theorem decodeBytes_wordBytes {w : Word} {i : Instr} (h : decodeWord w = .instr i) (rest : List Byte) :
    decodeBytes (wordBytes w ++ rest) = .ok (i, rest) := by
  rw [wordBytes, List.cons_append, List.cons_append, List.nil_append, decodeBytes, composeWord_wordBytes, h]

/-- Settles O2: the word by its format, and the bytes as they compose it. -/
theorem decodeInvertsEncode : Obligations.DecodeInvertsEncode := by
  unfold Obligations.DecodeInvertsEncode
  intro i rest h
  exact ⟨decodeWord_encode h, decodeBytes_wordBytes (decodeWord_encode h) rest⟩

/-- Decoding answers only well-formed instructions: DRW's height is the value of a 4-bit field (30_encoding R103). -/
theorem wellFormed_of_decodeWord {w : Word} {i : Instr} (h : decodeWord w = .instr i) : i.wellFormed = true := by
  cases i with
  | drw x y n =>
    have hf : fieldFamily w = 0xD#4 := encode_of_decodeWord h ▸ fieldFamily_formXyn ..
    rw [decodeWord, hf] at h
    cases h
    exact decide_eq_true (Nat.le_of_lt_succ (fieldN w).isLt)
  | _ => rfl

/-- Settles O3: the word by its family, the height by its field. -/
theorem encodeInvertsDecode : Obligations.EncodeInvertsDecode := by
  unfold Obligations.EncodeInvertsDecode
  exact fun w i h => ⟨encode_of_decodeWord h, wellFormed_of_decodeWord h⟩

/-! The selector fields as numbers (30_encoding R101). -/

theorem fieldFamily_toNat (w : Word) : (fieldFamily w).toNat = w.toNat / 4096 := by
  have := w.isLt
  rw [fieldFamily, BitVec.extractLsb'_toNat, Nat.shiftRight_eq_div_pow]; omega

theorem fieldN_toNat (w : Word) : (fieldN w).toNat = w.toNat % 16 := by
  rw [fieldN, BitVec.extractLsb'_toNat, Nat.shiftRight_zero]

theorem fieldKk_toNat (w : Word) : (fieldKk w).toNat = w.toNat % 256 := by
  rw [fieldKk, BitVec.extractLsb'_toNat, Nat.shiftRight_zero]

/-! The unknown words of each family that has any: a word is reported as itself (30_encoding R106 to R111). -/

theorem decodeFamily0_unknown_iff {w u : Word} :
    decodeFamily0 w = .unknown u ↔ u = w ∧ w.toNat ≠ 0x00E0 ∧ w.toNat ≠ 0x00EE := by
  rw [decodeFamily0]
  split
  · simp [*]
  · split
    · simp [*]
    · simp_all [BitVec.toNat_eq, eq_comm]

theorem decodeFamily5_unknown_iff {w u : Word} :
    decodeFamily5 w = .unknown u ↔ u = w ∧ w.toNat % 16 ≠ 0 := by
  rw [decodeFamily5, ← fieldN_toNat]
  split
  · simp [*]
  · simp_all [BitVec.toNat_eq, eq_comm]

theorem decodeFamily8_unknown_iff {w u : Word} :
    decodeFamily8 w = .unknown u ↔ u = w ∧ 0x7 < w.toNat % 16 ∧ w.toNat % 16 ≠ 0xE := by
  rw [decodeFamily8, ← fieldN_toNat]
  split
  case h_10 =>
    have : 0x7 < (fieldN w).toNat ∧ (fieldN w).toNat ≠ 0xE := by simp only [imp_false] at *; bv_omega
    simp [this, eq_comm]
  all_goals simp [*]

theorem decodeFamily9_unknown_iff {w u : Word} :
    decodeFamily9 w = .unknown u ↔ u = w ∧ w.toNat % 16 ≠ 0 := by
  rw [decodeFamily9, ← fieldN_toNat]
  split
  · simp [*]
  · simp_all [BitVec.toNat_eq, eq_comm]

theorem decodeFamilyE_unknown_iff {w u : Word} :
    decodeFamilyE w = .unknown u ↔ u = w ∧ w.toNat % 256 ∉ [0x9E, 0xA1] := by
  rw [decodeFamilyE, ← fieldKk_toNat]
  split
  case h_3 => simp_all [BitVec.toNat_eq, eq_comm]
  all_goals simp [*]

theorem decodeFamilyF_unknown_iff {w u : Word} :
    decodeFamilyF w = .unknown u ↔
      u = w ∧ w.toNat % 256 ∉ [0x07, 0x0A, 0x15, 0x18, 0x1E, 0x29, 0x33, 0x55, 0x65] := by
  rw [decodeFamilyF, ← fieldKk_toNat]
  split
  case h_10 => simp_all [BitVec.toNat_eq, eq_comm]
  all_goals simp [*]

/-- No row of the opcode map matches the word (30_encoding R106 to R110). -/
def MatchesNoRow (w : Word) : Prop :=
  (w.toNat / 4096 = 0x0 ∧ w.toNat ≠ 0x00E0 ∧ w.toNat ≠ 0x00EE) ∨
  ((w.toNat / 4096 = 0x5 ∨ w.toNat / 4096 = 0x9) ∧ w.toNat % 16 ≠ 0) ∨
  (w.toNat / 4096 = 0x8 ∧ 0x7 < w.toNat % 16 ∧ w.toNat % 16 ≠ 0xE) ∨
  (w.toNat / 4096 = 0xE ∧ w.toNat % 256 ∉ [0x9E, 0xA1]) ∨
  (w.toNat / 4096 = 0xF ∧ w.toNat % 256 ∉ [0x07, 0x0A, 0x15, 0x18, 0x1E, 0x29, 0x33, 0x55, 0x65])

/-- Family by family: six have unknown words, and every word of the ten others is an instruction's. -/
theorem decodeWord_unknown_iff {w u : Word} : decodeWord w = .unknown u ↔ u = w ∧ MatchesNoRow w := by
  rw [decodeWord, MatchesNoRow, ← fieldFamily_toNat]
  split
  case h_1 h => rw [decodeFamily0_unknown_iff, h]; simp
  case h_6 h => rw [decodeFamily5_unknown_iff, h]; simp
  case h_9 h => rw [decodeFamily8_unknown_iff, h]; simp
  case h_10 h => rw [decodeFamily9_unknown_iff, h]; simp
  case h_15 h => rw [decodeFamilyE_unknown_iff, h]; simp
  case h_16 h => rw [decodeFamilyF_unknown_iff, h]; simp
  case h_17 => simp only [imp_false] at *; bv_omega -- no value of 4 bits is left
  all_goals simp [*]

/-- Settles O4, by the unknown words of each family. -/
theorem unknownWordsExactly : Obligations.UnknownWordsExactly := by
  unfold Obligations.UnknownWordsExactly
  exact ⟨fun _ _ h => (decodeWord_unknown_iff.1 h).1, fun _ => decodeWord_unknown_iff.trans (and_iff_right rfl)⟩

/-! A row's fixed bits, family and selector, as one number over its operands (30_encoding R102). -/

theorem formXkk_selector_toNat (f : BitVec 4) (x : RegIx) (sel : Byte) :
    (formXkk f x sel).toNat = 4096 * f.toNat + sel.toNat + 256 * x.val := by
  rw [formXkk_toNat, Nat.add_right_comm]

theorem formXyn_selector_toNat (f : BitVec 4) (x y : RegIx) (sel : BitVec 4) :
    (formXyn f x y sel).toNat = 4096 * f.toNat + sel.toNat + 256 * x.val + 16 * y.val := by
  rw [formXyn_toNat]; omega

/-- Settles O59, each row by its format. -/
theorem encodingByRow : Obligations.EncodingByRow := by
  unfold Obligations.EncodingByRow
  intro nnn x y kk n hn
  have hdrw : (encode (.drw x y n)).toNat = 0xD000 + 256 * x.val + 16 * y.val + n := by
    rw [encode, formXyn_toNat, height_toNat hn]; rfl
  exact ⟨rfl, rfl, formNnn_toNat .., formNnn_toNat .., formXkk_toNat .., formXkk_toNat .., formXyn_selector_toNat ..,
    formXkk_toNat .., formXkk_toNat .., formXyn_selector_toNat .., formXyn_selector_toNat .., formXyn_selector_toNat ..,
    formXyn_selector_toNat .., formXyn_selector_toNat .., formXyn_selector_toNat .., formXyn_selector_toNat ..,
    formXyn_selector_toNat .., formXyn_selector_toNat .., formXyn_selector_toNat .., formNnn_toNat .., formNnn_toNat ..,
    formXkk_toNat .., hdrw, formXkk_selector_toNat .., formXkk_selector_toNat .., formXkk_selector_toNat ..,
    formXkk_selector_toNat .., formXkk_selector_toNat .., formXkk_selector_toNat .., formXkk_selector_toNat ..,
    formXkk_selector_toNat .., formXkk_selector_toNat .., formXkk_selector_toNat .., formXkk_selector_toNat ..⟩

/-- Settles O1: closed words, decoded. -/
theorem sampleWordsDecode : Obligations.SampleWordsDecode := by
  unfold Obligations.SampleWordsDecode
  decide

end Sys2Proof

namespace Sys2Proof.Machine

/-- A meaning that completes under a condition and faults otherwise refuses nothing. -/
theorem ne_refused_of_eq_ite {c : Prop} [Decidable c] {a : Result} {t : State} {f : Fault}
    (h : a = if c then .next t else .fault f) (r : Refusal) : a ≠ .refused r := by
  rw [h]; split <;> nofun

/-- Every arm of `exec` completes or faults (40_engine R133). -/
theorem exec_ne_refused (i : Instr) (s : State) (r : Refusal) : exec i s ≠ .refused r := by
  cases i with
  | ret =>
    obtain hs | ⟨below, u, hs⟩ := s.stack.eq_nil_or_concat'
    · rw [exec, execRet_nil hs]; nofun
    · rw [exec, execRet_append hs]; nofun
  | call nnn => exact ne_refused_of_eq_ite (execCall_eq nnn s) r
  | drw x y n => exact ne_refused_of_eq_ite (execDrw_eq x y n s) r
  | skp x => exact ne_refused_of_eq_ite (skipOnKey_eq x true s) r
  | sknp x => exact ne_refused_of_eq_ite (skipOnKey_eq x false s) r
  | ldB x => exact ne_refused_of_eq_ite (storeAtIndex_eq (bcdDigits (s.reg x)) s (by simp)) r
  | storeRegs x => exact ne_refused_of_eq_ite (storeAtIndex_eq (regsUpTo s x) s (by simp)) r
  | loadRegs x => exact ne_refused_of_eq_ite (execLoadRegs_eq x s) r
  | _ => nofun

/-- Settles O47, case by case on what a step can do. -/
theorem noStepIsRefused : Obligations.NoStepIsRefused := by
  unfold Obligations.NoStepIsRefused
  intro s r h
  cases hf : s.fault with
  | some f => rw [step, hf] at h; cases h
  | none =>
    obtain ⟨x, -, hx⟩ | ⟨-, -, hx⟩ | ⟨i, -, hx⟩ | ⟨w, u, -, -, -, hx⟩ := step_cases hf <;> rw [h] at hx
    · cases hx
    · cases hx
    · exact exec_ne_refused i s.arrive r hx.symm
    · cases hx

end Sys2Proof.Machine
end

section
/-! PROOFS. The step (40_engine R130 to R140): the key wait, the instruction at pc, the fetch out of memory, the unknown
opcode, and the end of the run at a recorded fault. -/
namespace Sys2Proof.Machine

/-- A step in AwaitingKey resolves the wait in the state the environment leaves (40_engine R138). -/
theorem step_awaiting {s : State} {x : RegIx} (hf : s.fault = none) (hm : s.mode = .awaitingKey x) :
    step s = .next (resolveWait x s.arrive) :=
  (step_eq hf).trans (engineStep_awaiting (s := s.arrive) hm)

/-- A step in Running fetches, decodes and executes in that state (40_engine R130). -/
theorem step_fetching {s : State} (h : Fetching s) : step s = runInstruction s.arrive :=
  (step_eq h.2).trans (engineStep_running (s := s.arrive) h.1)

/-- Settles O13: the search finds no key and the wait stays, or it finds `k`, the least, and the wait takes it. -/
theorem awaitingKeyStep : Obligations.AwaitingKeyStep := by
  unfold Obligations.AwaitingKeyStep
  refine fun s x hf hm => ⟨fun hnone => ?_, fun k hk hp hleast => ?_⟩
  · have hkey : s.arrive.leastKey = none := leastKey_none.2 hnone
    rw [step_awaiting hf hm, resolveWait_none hkey]
  · have hkey : s.arrive.leastKey = some k := leastKey_some.2 ⟨hk, hp, hleast⟩
    refine ⟨_, (step_awaiting hf hm).trans (congrArg _ (resolveWait_some hkey)), ?_, rfl, rfl, hf,
      fun _ hne => reg_setReg_ne s.arrive _ hne, rfl, rfl, ⟨rfl, rfl⟩, ⟨fun _ _ => rfl, rfl⟩, fun _ => rfl, rfl⟩
    rw [State.takeKey, setMode_reg, advance_reg, reg_setReg_self, BitVec.toNat_ofNat, Nat.mod_eq_of_lt (by omega)]

/-- Settles O8, by what the decoded instruction's step is. -/
theorem stepRunsDecodedInstruction : Obligations.StepRunsDecodedInstruction := by
  unfold Obligations.StepRunsDecodedInstruction
  exact fun _ _ h => step_of_runs h

/-- Settles O11: the fetch reports the larger of pc and 0x1000 (D26). -/
theorem fetchFaultsAboveMemory : Obligations.FetchFaultsAboveMemory := by
  unfold Obligations.FetchFaultsAboveMemory
  intro s hs hpc
  have hfetch : fetch s = .error (.memoryOutOfBounds (max s.pc.toNat 4096) .fetch) :=
    (fetch_eq s).trans (if_neg (by omega))
  have haddr : max s.pc.toNat 4096 = if 0xFFF < s.pc.toNat then s.pc.toNat else 0x1000 := by split <;> omega
  rw [step_fetching hs, runInstruction_error (s := s.arrive) hfetch, haddr]

/-- Settles O12: the step is `execUnknown`, which emits and advances, and its frame is every other field. -/
theorem unknownOpcodeIsNoOp : Obligations.UnknownOpcodeIsNoOp := by
  unfold Obligations.UnknownOpcodeIsNoOp
  refine ⟨fun s w hs hw hd => ?_, by decide⟩
  have hstep : step s = execUnknown w s.arrive := by
    rw [step_fetching hs, runInstruction_ok (s := s.arrive) hw, hd, execDecoded]
  exact ⟨_, hstep, rfl, rfl, fun _ _ => rfl, rfl, rfl, ⟨rfl, rfl⟩, ⟨fun _ _ => rfl, rfl⟩, ⟨rfl, rfl⟩, fun _ => rfl⟩

/-- Settles O44: the step, the state after it and the report each look at the fault record first. -/
theorem noStepAfterFault : Obligations.NoStepAfterFault := by
  unfold Obligations.NoStepAfterFault
  intro s f hf
  refine ⟨?_, ?_, ?_⟩
  · rw [step, hf]
  · rw [State.afterStep, hf]
  · rw [State.report, hf]

end Sys2Proof.Machine
end

section
/-! SUPPORT. The frames of control flow, where a skip goes, the fetch from above memory, and the state after a step that
faults. -/
namespace Sys2Proof.Machine

/-- A move of pc keeps all but pc. -/
theorem onlyPc_setPc (s : State) (w : Word) : OnlyPc s (s.setPc w) :=
  ⟨fun _ _ => rfl, rfl, rfl, ⟨rfl, rfl⟩, ⟨fun _ _ => rfl, rfl⟩, ⟨rfl, rfl⟩, fun _ => rfl, ⟨rfl, rfl, rfl, rfl, rfl⟩⟩

/-- A new stack and a move of pc keep all but the two. -/
theorem onlyStack_setStack_setPc (s : State) (st : List Word) (w : Word) : OnlyStack s ((s.setStack st).setPc w) :=
  ⟨fun _ _ => rfl, rfl, ⟨rfl, rfl⟩, ⟨fun _ _ => rfl, rfl⟩, ⟨rfl, rfl⟩, fun _ => rfl, ⟨rfl, rfl, rfl, rfl, rfl⟩⟩

theorem onlyPc_skipIf (s : State) (c : Bool) : OnlyPc s (s.skipIf c) := onlyPc_setPc s _

theorem skipIf_pc_of_true (s : State) {c : Bool} (h : c = true) : (s.skipIf c).pc = s.pc + 4 := if_pos h

theorem skipIf_pc_of_false (s : State) {c : Bool} (h : c = false) : (s.skipIf c).pc = s.pc + 2 :=
  if_neg (Bool.not_eq_true c ▸ h)

/-- SE's skip, whatever its two operands are (41_control_flow R154, R156). -/
theorem skipIf_beq (s : State) (a b : Byte) :
    OnlyPc s (s.skipIf (a == b)) ∧ (a = b → (s.skipIf (a == b)).pc = s.pc + 4) ∧
      (a ≠ b → (s.skipIf (a == b)).pc = s.pc + 2) :=
  ⟨onlyPc_skipIf s _, fun h => skipIf_pc_of_true s (beq_iff_eq.2 h),
    fun h => skipIf_pc_of_false s (beq_false_of_ne h)⟩

/-- SNE's skip (41_control_flow R155, R157). -/
theorem skipIf_bne (s : State) (a b : Byte) :
    OnlyPc s (s.skipIf (a != b)) ∧ (a ≠ b → (s.skipIf (a != b)).pc = s.pc + 4) ∧
      (a = b → (s.skipIf (a != b)).pc = s.pc + 2) :=
  ⟨onlyPc_skipIf s _, fun h => skipIf_pc_of_true s (bne_iff_ne.2 h),
    fun h => skipIf_pc_of_false s (bne_eq_false_iff_eq.2 h)⟩

/-- The target of JP V0 does not wrap (41_control_flow R158). -/
theorem offsetOperand_toNat (s : State) (nnn : BitVec 12) :
    (offsetOperand s nnn).toNat = nnn.toNat + (s.reg 0).toNat := by
  have := nnn.isLt
  have := (s.reg 0).isLt
  rw [offsetOperand, BitVec.toNat_add, addrOperand_toNat, zext16_toNat]; omega

/-- From above 0xFFE a fetch faults with the larger of pc and 0x1000 (40_engine R131, D26). -/
theorem fetch_above {s : State} (h : 0xFFE < s.pc.toNat) :
    fetch s = .error (.memoryOutOfBounds (max s.pc.toNat 4096) .fetch) :=
  (fetch_eq s).trans (if_neg (by omega))

/-- … which no byte of memory has as its address. -/
theorem fetch_above_reports_above {s : State} (h : 0xFFE < s.pc.toNat) :
    ∃ a, 0xFFF < a ∧ fetch s = .error (.memoryOutOfBounds a .fetch) :=
  ⟨_, by omega, fetch_above h⟩

/-- A faulting instruction leaves what the environment left, with the fault recorded (60_exceptions R300, R301). -/
theorem afterStep_of_runs_fault {s : State} {i : Instr} {f : Fault} (hr : Runs s i)
    (h : exec i s.arrive = .fault f) : s.afterStep = s.arrive.recordFault f := by
  have ⟨⟨_, hf⟩, _⟩ := hr
  rw [State.afterStep, hf, step_of_runs hr, h]

end Sys2Proof.Machine
end

section
/-! PROOFS. Control flow (41_control_flow R151 to R159). -/
namespace Sys2Proof.Machine

/-- Settles O14, by whether the stack has a last entry; the step that faults writes the fault record alone. -/
theorem returnPopsAndAdvances : Obligations.ReturnPopsAndAdvances := by
  unfold Obligations.ReturnPopsAndAdvances
  refine fun s => ⟨fun below u hs => ?_, fun hs => ⟨execRet_nil hs, fun hr => ?_⟩⟩
  · exact ⟨_, execRet_append hs, rfl, rfl, onlyStack_setStack_setPc s below (u + 2)⟩
  · have hfault : exec .ret s.arrive = .fault (.stackUnderflow s.pc) := execRet_nil (s := s.arrive) hs
    rw [afterStep_of_runs_fault hr hfault]
    exact ⟨rfl, hs⟩

/-- Settles O15: of the two bytes at 0xFFF the second does not exist. -/
theorem jumpSetsPc : Obligations.JumpSetsPc := by
  unfold Obligations.JumpSetsPc
  refine fun nnn s => ⟨_, rfl, addrOperand_toNat nnn, onlyPc_setPc s _, fun htop => fetch_above_reports_above ?_⟩
  rw [setPc_pc, htop]; decide

/-- Settles O16, by whether the stack has room. -/
theorem callPushesOwnAddress : Obligations.CallPushesOwnAddress := by
  unfold Obligations.CallPushesOwnAddress
  refine fun nnn s => ⟨fun hroom => ?_, fun hfull => ?_⟩
  · exact ⟨_, (execCall_eq nnn s).trans (if_pos hroom), addrOperand_toNat nnn, rfl, onlyStack_setStack_setPc s _ _⟩
  · exact (execCall_eq nnn s).trans (if_neg (by omega))

/-- Settles O17: the RET pops the address that the CALL pushed, so the two together only move pc. -/
theorem callThenReturnRestores : Obligations.CallThenReturnRestores := by
  unfold Obligations.CallThenReturnRestores
  intro nnn s hroom
  obtain ⟨hcall, -⟩ := callPushesOwnAddress nnn s
  obtain ⟨t, ht, -, hstack, hregs, hi, htimers, hscreen, hstatus, hmem, hout⟩ := hcall hroom
  exact ⟨t, _, ht, execRet_append hstack, rfl, hregs, hi, rfl, htimers, hscreen, hstatus, hmem, hout⟩

/-- Settles O18: SE's and SNE's skips, on V[x] and the immediate. -/
theorem immediateSkips : Obligations.ImmediateSkips := by
  unfold Obligations.ImmediateSkips
  exact fun x kk s => ⟨⟨_, rfl, skipIf_beq s (s.reg x) kk⟩, ⟨_, rfl, skipIf_bne s (s.reg x) kk⟩⟩

/-- Settles O19: the same two skips, on V[x] and V[y]. -/
theorem registerSkips : Obligations.RegisterSkips := by
  unfold Obligations.RegisterSkips
  exact fun x y s => ⟨⟨_, rfl, skipIf_beq s (s.reg x) (s.reg y)⟩, ⟨_, rfl, skipIf_bne s (s.reg x) (s.reg y)⟩⟩

/-- Settles O20: the sum is that of the integers, and 0xFFF + 0xFF = 0x10FE. -/
theorem offsetJump : Obligations.OffsetJump := by
  unfold Obligations.OffsetJump
  refine fun nnn s => ⟨_, rfl, offsetOperand_toNat s nnn, onlyPc_setPc s _, fetch_above_reports_above,
    fun hnnn hreg => ?_⟩
  have hpc : (s.setPc (offsetOperand s nnn)).pc.toNat = 0x10FE := by
    rw [setPc_pc, offsetOperand_toNat, hnnn, hreg]; rfl
  have hfetch := fetch_above (s := s.setPc (offsetOperand s nnn)) (by omega)
  rw [hpc] at hfetch
  exact ⟨hpc, hfetch⟩

end Sys2Proof.Machine
end

section
/-! SUPPORT. The ALU's two endings, a result alone and a result with its flag (42_alu R183): what a read gives, and the
frame; the values of the flags, of a difference and of a shift as numbers. -/
namespace Sys2Proof.Machine

/-- A result in V[x] is what V[x] then holds. -/
@[simp] theorem reg_finishReg_self (s : State) (x : RegIx) (b : Byte) : (s.finishReg x b).reg x = b :=
  (reg_finishReg s x x b).trans (if_pos rfl)

/-- The flag is written last, so VF holds it whatever x is (42_alu R183, D5). -/
@[simp] theorem reg_finishFlag_vf (s : State) (x : RegIx) (res fl : Byte) : (s.finishFlag x res fl).reg 0xF = fl :=
  (reg_finishFlag s x 0xF res fl).trans (if_pos rfl)

/-- The flag takes the place of the result in VF alone. -/
theorem reg_finishFlag_result (s : State) {x : RegIx} (res fl : Byte) (hx : x ≠ 0xF) :
    (s.finishFlag x res fl).reg x = res :=
  (reg_finishFlag s x x res fl).trans ((if_neg hx).trans (if_pos rfl))

theorem sameButRegs_finishReg (s : State) (x : RegIx) (b : Byte) : SameButRegs s (s.finishReg x b) :=
  ⟨rfl, rfl, ⟨rfl, rfl⟩, ⟨fun _ _ => rfl, rfl⟩, ⟨rfl, rfl⟩, fun _ => rfl, ⟨rfl, rfl, rfl, rfl, rfl⟩⟩

/-- The frame of an instruction with no flag: VF is kept unless it is the destination. -/
theorem onlyRegs_finishReg (s : State) (x : RegIx) (b : Byte) : OnlyRegs (· = x) s (s.finishReg x b) :=
  ⟨fun k hk => (reg_finishReg s x k b).trans (if_neg hk), sameButRegs_finishReg s x b⟩

/-- The frame of an instruction with a flag: the destination and VF are written. -/
theorem onlyRegs_finishFlag (s : State) (x : RegIx) (res fl : Byte) :
    OnlyRegs (fun k => k = x ∨ k = 0xF) s (s.finishFlag x res fl) := by
  refine ⟨fun k hk => ?_, sameButRegs_finishReg (s.setReg x res) vf fl⟩
  obtain ⟨hkx, hkf⟩ := not_or.1 hk
  exact (reg_finishFlag s x k res fl).trans ((if_neg hkf).trans (if_neg hkx))

theorem flagByte_of_true {c : Bool} (h : c = true) : flagByte c = 1 := if_pos h

theorem flagByte_of_false {c : Bool} (h : c = false) : flagByte c = 0 := if_neg (Bool.not_eq_true c ▸ h)

/-- The flag of bit `i` is that binary digit. -/
theorem flagByte_getLsbD_toNat (a : Byte) (i : Nat) : (flagByte (a.getLsbD i)).toNat = a.toNat / 2 ^ i % 2 := by
  rw [← Nat.toNat_testBit, BitVec.testBit_toNat]
  cases a.getLsbD i <;> rfl

theorem shrFlag_toNat (a : Byte) : (shrFlag a).toNat = a.toNat % 2 := by
  rw [shrFlag, flagByte_getLsbD_toNat, Nat.pow_zero, Nat.div_one]

theorem shlFlag_toNat (a : Byte) : (shlFlag a).toNat = a.toNat / 128 := by
  have := a.isLt
  rw [shlFlag, flagByte_getLsbD_toNat]; omega

/-- A difference of bytes, modulo 256 (42_alu R180, R194). -/
theorem byte_sub_toNat (a b : Byte) : (a - b).toNat = (256 + a.toNat - b.toNat) % 256 := by
  have := b.isLt
  rw [BitVec.toNat_sub]; omega

/-- SUB's and SUBN's result and NOT borrow, whichever of the two operands is subtracted (42_alu R189, R191). -/
theorem finishFlag_sub {s t : State} {x : RegIx} {a b : Byte} (ht : t = s.finishFlag x (a - b) (noBorrowFlag a b)) :
    (x ≠ 0xF → (t.reg x).toNat = (256 + a.toNat - b.toNat) % 256) ∧
      (b.toNat ≤ a.toNat → t.reg 0xF = 1) ∧ (a.toNat < b.toNat → t.reg 0xF = 0) := by
  rw [ht, reg_finishFlag_vf, noBorrowFlag]
  refine ⟨fun hx => ?_, fun hle => flagByte_of_true (decide_eq_true hle),
    fun hlt => flagByte_of_false (decide_eq_false (Nat.not_le.2 hlt))⟩
  rw [reg_finishFlag_result s _ _ hx, byte_sub_toNat]

end Sys2Proof.Machine
end

section
/-! PROOFS. Registers and ALU (42_alu R181 to R193). -/
namespace Sys2Proof.Machine

/-- Settles O21: both end with a result alone, kk and the sum modulo 256. -/
theorem immediateResults : Obligations.ImmediateResults := by
  unfold Obligations.ImmediateResults
  refine fun x kk s => ⟨⟨_, rfl, reg_finishReg_self s x kk, rfl, onlyRegs_finishReg s x kk⟩,
    ⟨_, rfl, ?_, rfl, onlyRegs_finishReg s x _⟩⟩
  rw [reg_finishReg_self, BitVec.toNat_add]

/-- Settles O22: each ends with a result alone, whose bits the library's lemma on the operation gives. -/
theorem bitwiseResults : Obligations.BitwiseResults := by
  unfold Obligations.BitwiseResults
  refine fun x y s => ⟨⟨_, rfl, reg_finishReg_self s x _, rfl, onlyRegs_finishReg s x _⟩,
    ⟨_, rfl, rfl, onlyRegs_finishReg s x _, fun b => ?_⟩, ⟨_, rfl, rfl, onlyRegs_finishReg s x _, fun b => ?_⟩,
    ⟨_, rfl, rfl, onlyRegs_finishReg s x _, fun b => ?_⟩⟩
  · rw [reg_finishReg_self, BitVec.getLsbD_or]
  · rw [reg_finishReg_self, BitVec.getLsbD_and]
  · rw [reg_finishReg_self, BitVec.getLsbD_xor]

/-- Settles O23: VF is the carry, by whether the sum of the integers is above 255. -/
theorem addWithCarry : Obligations.AddWithCarry := by
  unfold Obligations.AddWithCarry
  refine fun x y s => ⟨_, rfl, rfl, onlyRegs_finishFlag s x _ _, fun hx => ?_, fun hcarry => ?_, fun hfits => ?_⟩
  · rw [reg_finishFlag_result s _ _ hx, BitVec.toNat_add]
  · rw [reg_finishFlag_vf]
    exact flagByte_of_true (decide_eq_true hcarry)
  · rw [reg_finishFlag_vf]
    exact flagByte_of_false (decide_eq_false (Nat.not_lt.2 hfits))

/-- Settles O24: the subtraction of V[y] from V[x]. -/
theorem subtractWithNotBorrow : Obligations.SubtractWithNotBorrow := by
  unfold Obligations.SubtractWithNotBorrow
  exact fun x y s => ⟨_, rfl, rfl, onlyRegs_finishFlag s x _ _, finishFlag_sub rfl⟩

/-- Settles O25: the subtraction of V[x] from V[y]. -/
theorem reverseSubtractWithNotBorrow : Obligations.ReverseSubtractWithNotBorrow := by
  unfold Obligations.ReverseSubtractWithNotBorrow
  exact fun x y s => ⟨_, rfl, rfl, onlyRegs_finishFlag s x _ _, finishFlag_sub rfl⟩

/-- Settles O26: the shifts as a halving and a doubling modulo 256, and VF the digit that each shifts out. -/
theorem shiftsWithBitOut : Obligations.ShiftsWithBitOut := by
  unfold Obligations.ShiftsWithBitOut
  refine fun x y s => ⟨⟨_, rfl, rfl, onlyRegs_finishFlag s x _ _, fun hx => ?_, ?_⟩,
    ⟨_, rfl, rfl, onlyRegs_finishFlag s x _ _, fun hx => ?_, ?_⟩⟩
  · rw [reg_finishFlag_result s _ _ hx, BitVec.toNat_ushiftRight, Nat.shiftRight_one]
  · rw [reg_finishFlag_vf, shrFlag_toNat]
  · rw [reg_finishFlag_result s _ _ hx, BitVec.toNat_shiftLeft, Nat.shiftLeft_eq, Nat.pow_one, Nat.mul_comm]
  · rw [reg_finishFlag_vf, shlFlag_toNat]

/-- Settles O27: the result is of the state's random byte, which in a step is the one that the environment left. -/
theorem randomAndImmediate : Obligations.RandomAndImmediate := by
  unfold Obligations.RandomAndImmediate
  refine fun x kk s => ⟨⟨_, rfl, rfl, onlyRegs_finishReg s x _, fun b => ?_⟩, fun hr => ?_⟩
  · rw [reg_finishReg_self, BitVec.getLsbD_and]
  · exact ⟨_, step_of_runs hr, reg_finishReg_self s.arrive x _⟩

end Sys2Proof.Machine
end

section
/-! SUPPORT. I and memory: the frames of an ending that writes I and of a store at I, the values that go to I, what a
store at I leaves, and that a faulting step keeps memory and the registers. -/
namespace Sys2Proof.Machine

theorem onlyIndex_finishI (s : State) (w : Word) : OnlyIndex s (s.finishI w) :=
  ⟨fun _ _ => rfl, rfl, ⟨rfl, rfl⟩, ⟨fun _ _ => rfl, rfl⟩, ⟨rfl, rfl⟩, fun _ => rfl, ⟨rfl, rfl, rfl, rfl, rfl⟩⟩

/-- The whole byte counts, and five times it does not wrap (43_index_memory R212). -/
theorem glyphAddr_toNat (a : Byte) : (glyphAddr a).toNat = a.toNat * 5 := by
  have := a.isLt
  have hfive : (5 : Word).toNat = 5 := rfl
  rw [glyphAddr, BitVec.toNat_mul, zext16_toNat, hfive]; omega

/-- I wraps at 16 bits (43_index_memory R211, D8). -/
theorem indexSum_toNat (s : State) (x : RegIx) :
    (indexSum s x).toNat = (s.i.toNat + (s.reg x).toNat) % 65536 := by
  rw [indexSum, BitVec.toNat_add, zext16_toNat]

/-- Each digit of a byte fits its own byte: hundreds, tens, ones (43_index_memory R214). -/
theorem bcdDigits_toNat (a : Byte) :
    ((bcdDigits a)[0]).toNat = a.toNat / 100 ∧ ((bcdDigits a)[1]).toNat = a.toNat / 10 % 10 ∧
      ((bcdDigits a)[2]).toNat = a.toNat % 10 := by
  have := a.isLt
  refine ⟨?_, ?_, ?_⟩ <;>
    simp only [bcdDigits, List.getElem_cons_zero, List.getElem_cons_succ, BitVec.toNat_ofNat] <;> omega

/-- The `j`-th byte written is read at `a + j`. -/
theorem readByte_writeBytes_add {m : Memory} {a : Nat} {bytes : List Byte} (hm : m.wf = true)
    (fits : a + bytes.length ≤ 4096) {j : Nat} (hj : j < bytes.length) :
    readByte (writeBytes m a bytes) (a + j) = bytes[j] := by
  rw [readByte_writeBytes bytes _ hm fits, dif_pos (by omega)]
  simp only [Nat.add_sub_cancel_left]

/-- … and outside the bytes written memory is left. -/
theorem readByte_writeBytes_outside {m : Memory} {a c : Nat} {bytes : List Byte} (hm : m.wf = true)
    (fits : a + bytes.length ≤ 4096) (hc : c < a ∨ a + bytes.length ≤ c) :
    readByte (writeBytes m a bytes) c = readByte m c := by
  rw [readByte_writeBytes bytes c hm fits, dif_neg (by omega)]

/-- A store at I of bytes that fit: they are in memory in order, pc goes on, and all else is kept (43_index_memory R214,
R216). -/
theorem storeAtIndex_completes {s : State} {bytes : List Byte} (hm : s.mem.wf = true) (h0 : bytes.length ≠ 0)
    (fits : s.i.toNat + bytes.length ≤ 4096) :
    ∃ t, storeAtIndex bytes s = .next t ∧
      (∀ (j : Nat) (hj : j < bytes.length), readByte t.mem (s.i.toNat + j) = bytes[j]) ∧
      t.pc = s.pc + 2 ∧ OnlyStored s.i.toNat bytes.length s t :=
  ⟨_, (storeAtIndex_eq bytes s h0).trans (if_pos fits), fun _ => readByte_writeBytes_add hm fits, rfl,
    fun _ _ => rfl, rfl, rfl, ⟨rfl, rfl⟩, ⟨fun _ _ => rfl, rfl⟩, ⟨rfl, rfl⟩,
    fun _ => readByte_writeBytes_outside hm fits, ⟨rfl, rfl, rfl, rfl, rfl⟩⟩

/-- A store at I of bytes that do not all fit faults with the first address out of range (43_index_memory R215, D26). -/
theorem storeAtIndex_faults {s : State} {bytes : List Byte} (h0 : bytes.length ≠ 0)
    (h : 4096 < s.i.toNat + bytes.length) :
    storeAtIndex bytes s = .fault (.memoryOutOfBounds (max s.i.toNat 4096) .write) :=
  (storeAtIndex_eq bytes s h0).trans (if_neg (Nat.not_le.2 h))

/-- A load past the end of memory faults with the first address out of range (43_index_memory R217, D26). -/
theorem execLoadRegs_faults {s : State} {x : RegIx} (h : 0xFFF < s.i.toNat + x.val) :
    execLoadRegs x s = .fault (.memoryOutOfBounds (max s.i.toNat 4096) .read) :=
  (execLoadRegs_eq x s).trans (if_neg (by omega))

/-- A faulting instruction stores nothing (60_exceptions R301, D14). -/
theorem sameMemory_afterStep_of_fault {s : State} {i : Instr} {f : Fault} (hr : Runs s i)
    (h : exec i s.arrive = .fault f) : SameMemory s s.afterStep := by
  rw [afterStep_of_runs_fault hr h]; exact fun _ => rfl

/-- … and loads nothing. -/
theorem sameRegs_afterStep_of_fault {s : State} {i : Instr} {f : Fault} (hr : Runs s i)
    (h : exec i s.arrive = .fault f) : SameRegsBut (fun _ => False) s s.afterStep := by
  rw [afterStep_of_runs_fault hr h]; exact fun _ _ => rfl

/-- The frame of a load: the registers V0..Vx are written (43_index_memory R217). -/
theorem onlyRegs_setV_setRegsFrom (s : State) (x : RegIx) (a : Nat) :
    OnlyRegs (fun k => k.val ≤ x.val) s
      (s.setV (setRegsFrom s.v 0 (readBytes s.mem a (x.val + 1)))).advance :=
  ⟨fun k hk => (reg_setV_setRegsFrom s x k a).trans (if_neg hk),
    rfl, rfl, ⟨rfl, rfl⟩, ⟨fun _ _ => rfl, rfl⟩, ⟨rfl, rfl⟩, fun _ => rfl, ⟨rfl, rfl, rfl, rfl, rfl⟩⟩

end Sys2Proof.Machine
end

section
/-! PROOFS. Index and memory (43_index_memory R210 to R218). -/
namespace Sys2Proof.Machine

/-- Settles O28: both end with I alone, nnn and five times V[x]. -/
theorem indexLoads : Obligations.IndexLoads := by
  unfold Obligations.IndexLoads
  exact ⟨fun nnn s => ⟨_, rfl, addrOperand_toNat nnn, rfl, onlyIndex_finishI s _⟩,
    fun x s => ⟨_, rfl, glyphAddr_toNat (s.reg x), rfl, onlyIndex_finishI s _⟩⟩

/-- Settles O29: it ends with I alone, the sum. -/
theorem indexAddWraps : Obligations.IndexAddWraps := by
  unfold Obligations.IndexAddWraps
  exact fun x s => ⟨_, rfl, indexSum_toNat s x, rfl, onlyIndex_finishI s _⟩

/-- Settles O30: a store at I of the three digits, by whether they fit. -/
theorem bcdStoresDigits : Obligations.BcdStoresDigits := by
  unfold Obligations.BcdStoresDigits
  intro x s hm
  have hlen := bcdDigits_length (s.reg x)
  refine ⟨fun hfits => ?_, fun hout => ?_⟩
  · obtain ⟨t, ht, hread, hpc, hframe⟩ :=
      storeAtIndex_completes (bytes := bcdDigits (s.reg x)) hm (by omega) (by omega)
    obtain ⟨hhundreds, htens, hones⟩ := bcdDigits_toNat (s.reg x)
    exact ⟨t, ht, (congrArg _ (hread 0 (by omega))).trans hhundreds, (congrArg _ (hread 1 (by omega))).trans htens,
      (congrArg _ (hread 2 (by omega))).trans hones, hpc, hframe⟩
  · have h0 : (bcdDigits (s.reg x)).length ≠ 0 := by omega
    have hover : 4096 < s.i.toNat + (bcdDigits (s.reg x)).length := by omega
    exact ⟨storeAtIndex_faults h0 hover,
      fun hr => sameMemory_afterStep_of_fault hr (storeAtIndex_faults (s := s.arrive) h0 hover)⟩

/-- Settles O31: a store at I of V0..Vx, by whether they fit. -/
theorem storeRegistersAtIndex : Obligations.StoreRegistersAtIndex := by
  unfold Obligations.StoreRegistersAtIndex
  intro x s hm
  have hlen := regsUpTo_length s x
  refine ⟨fun hfits => ?_, fun hout => ?_⟩
  · obtain ⟨t, ht, hread, hpc, hframe⟩ := storeAtIndex_completes (bytes := regsUpTo s x) hm (by omega) (by omega)
    refine ⟨t, ht, fun j hj => ?_, hpc, hlen ▸ hframe⟩
    rw [hread j.val (by omega), regsUpTo_getElem]
  · have h0 : (regsUpTo s x).length ≠ 0 := by omega
    have hover : 4096 < s.i.toNat + (regsUpTo s x).length := by omega
    exact ⟨storeAtIndex_faults h0 hover,
      fun hr => sameMemory_afterStep_of_fault hr (storeAtIndex_faults (s := s.arrive) h0 hover)⟩

/-- Settles O32, by whether every address exists. -/
theorem loadRegistersFromIndex : Obligations.LoadRegistersFromIndex := by
  unfold Obligations.LoadRegistersFromIndex
  refine fun x s => ⟨fun hfits => ?_, fun hout => ?_⟩
  · exact ⟨_, (execLoadRegs_eq x s).trans (if_pos (by omega)),
      fun j hj => (reg_setV_setRegsFrom s x j _).trans (if_pos hj), rfl, onlyRegs_setV_setRegsFrom s x _⟩
  · exact ⟨execLoadRegs_faults hout,
      fun hr => sameRegs_afterStep_of_fault hr (execLoadRegs_faults (s := s.arrive) hout)⟩

/-- Settles O33: the store completed, so its addresses exist, and the load reads there what the store wrote. -/
theorem storeThenLoadRoundTrip : Obligations.StoreThenLoadRoundTrip := by
  unfold Obligations.StoreThenLoadRoundTrip
  intro x s t u hm hstore hi hsame
  obtain ⟨hcompletes, hfaults⟩ := storeRegistersAtIndex x s hm
  have hfits : s.i.toNat + x.val ≤ 0xFFF := by
    by_contra hout
    cases hstore.symm.trans (hfaults (Nat.not_le.1 hout)).1
  obtain ⟨t', hstore', hwritten, -⟩ := hcompletes hfits
  cases hstore.symm.trans hstore'
  obtain ⟨r, hload, hread, -⟩ := (loadRegistersFromIndex x u).1 (hi ▸ hfits)
  refine ⟨r, hload, fun j hj => ?_⟩
  rw [hread j hj, hi, hsame j.val hj, hwritten j hj]

end Sys2Proof.Machine
end

section
/-! SUPPORT. The display: the frames of CLS and DRW, what DRW draws and when it collides, by the pixels that the sprite
covers, and that a faulting step keeps the screen. -/
namespace Sys2Proof.Machine

/-- The frame of an instruction that paints and writes no register. -/
theorem onlyScreen_paint_advance (s : State) (fb : Framebuffer) : OnlyScreen (fun _ => False) s (s.paint fb).advance :=
  ⟨fun _ _ => rfl, rfl, rfl, ⟨rfl, rfl⟩, ⟨rfl, rfl⟩, fun _ => rfl, ⟨rfl, rfl, rfl, rfl, rfl⟩⟩

/-- The frame of an instruction that paints and writes a register. -/
theorem onlyScreen_paint_setReg_advance (s : State) (fb : Framebuffer) (x : RegIx) (b : Byte) :
    OnlyScreen (· = x) s ((s.paint fb).setReg x b).advance :=
  ⟨fun _ hk => reg_setReg_ne (s.paint fb) b hk, rfl, rfl, ⟨rfl, rfl⟩, ⟨rfl, rfl⟩, fun _ => rfl,
    ⟨rfl, rfl, rfl, rfl, rfl⟩⟩

/-- A pixel under a set bit of the sprite is inverted, and every other pixel kept (44_display R243). -/
theorem pixel_drawResult {s : State} {x y : RegIx} {n : Nat} (hn : n ≤ 32) (px : Fin 64) (py : Fin 32) :
    (Covers s (s.reg x) (s.reg y) n px py → pixel (drawResult s x y n).1 px py = !pixel s.fb px py) ∧
      (¬ Covers s (s.reg x) (s.reg y) n px py → pixel (drawResult s x y n).1 px py = pixel s.fb px py) := by
  obtain ⟨hpixel, -⟩ := drawSprite_spec s.fb (s.reg x) (s.reg y) (readBytes s.mem s.i.toNat n) (by simpa using hn)
  rw [← mem_spritePixels_iff_covers]
  exact ⟨fun hmem => (hpixel px py).trans (if_pos hmem), fun hmem => (hpixel px py).trans (if_neg hmem)⟩

/-- A draw collides when a pixel that the sprite covers was on (44_display R243, R244). -/
theorem drawResult_collides_iff {s : State} {x y : RegIx} {n : Nat} (hn : n ≤ 32) :
    (drawResult s x y n).2 = true ↔
      ∃ px py, Covers s (s.reg x) (s.reg y) n px py ∧ pixel s.fb px py = true := by
  obtain ⟨-, hflag⟩ := drawSprite_spec s.fb (s.reg x) (s.reg y) (readBytes s.mem s.i.toNat n) (by simpa using hn)
  rw [drawResult, memBase, hflag, List.any_eq_true, Prod.exists]
  simp only [mem_spritePixels_iff_covers]

/-- A draw whose sprite does not lie in memory faults with the first address out of range (44_display R243, D26). -/
theorem execDrw_faults {s : State} {x y : RegIx} {n : Nat} (h0 : n ≠ 0) (h : 4096 < s.i.toNat + n) :
    execDrw x y n s = .fault (.memoryOutOfBounds (max s.i.toNat 4096) .read) :=
  (execDrw_eq x y n s).trans (if_neg (by omega))

/-- A draw that completes read no byte, or only bytes that exist. -/
theorem fits_of_execDrw_next {s t : State} {x y : RegIx} {n : Nat} (h : execDrw x y n s = .next t) :
    n = 0 ∨ s.i.toNat + n ≤ 4096 := by
  by_contra hout
  rw [execDrw_eq, if_neg hout] at h
  cases h

/-- A faulting instruction draws nothing (60_exceptions R301, D14). -/
theorem sameScreen_afterStep_of_fault {s : State} {i : Instr} {f : Fault} (hr : Runs s i)
    (h : exec i s.arrive = .fault f) : SameScreen s.arrive s.afterStep := by
  rw [afterStep_of_runs_fault hr h]; exact ⟨fun _ _ => rfl, rfl⟩

/-- Which pixels a sprite covers depends on I and memory alone. -/
theorem covers_congr {s t : State} (hi : t.i = s.i) (hmem : SameMemory s t) (xs ys : Byte) (n : Nat) (px : Fin 64)
    (py : Fin 32) : Covers t xs ys n px py ↔ Covers s xs ys n px py := by
  have hbyte : ∀ a, readByte t.mem a = readByte s.mem a := hmem
  simp only [Covers, hi, hbyte]

end Sys2Proof.Machine
end

section
/-! PROOFS. Framebuffer (44_display R240 to R246). -/
namespace Sys2Proof.Machine

/-- Settles O35: CLS paints the blank framebuffer, and no register is written. -/
theorem clearScreen : Obligations.ClearScreen := by
  unfold Obligations.ClearScreen
  exact fun s => ⟨_, rfl, pixel_blankFb, rfl, rfl, onlyScreen_paint_advance s blankFb⟩

/-- Settles O36, by whether the sprite's bytes exist; VF is the collision. -/
theorem drawXorsSprite : Obligations.DrawXorsSprite := by
  unfold Obligations.DrawXorsSprite
  intro x y n s hn
  have hrows : n ≤ 32 := by omega
  refine ⟨fun hfits => ?_, fun h0 hout => ⟨execDrw_faults h0 hout, fun hr => ?_⟩⟩
  · refine ⟨_, (execDrw_eq x y n s).trans (if_pos hfits), pixel_drawResult hrows,
      fun hon => ?_, fun hoff => ?_, rfl, rfl, onlyScreen_paint_setReg_advance s _ vf _⟩
    · exact (reg_setReg_self ..).trans (flagByte_of_true ((drawResult_collides_iff hrows).2 hon))
    · exact (reg_setReg_self ..).trans
        (flagByte_of_false (Bool.eq_false_iff.2 fun hcollides => hoff ((drawResult_collides_iff hrows).1 hcollides)))
  · have hfault : exec (.drw x y n) s.arrive = .fault (.memoryOutOfBounds (max s.i.toNat 4096) .read) :=
      execDrw_faults (s := s.arrive) h0 hout
    exact ⟨sameScreen_afterStep_of_fault hr hfault, sameRegs_afterStep_of_fault hr hfault⟩

/-- Settles O37: the second draw covers the pixels of the first, so it inverts them back, and it collides just at those
that the first turned on. -/
theorem drawTwiceRestores : Obligations.DrawTwiceRestores := by
  unfold Obligations.DrawTwiceRestores
  intro x y n s t hn hdraw hx hy
  have hfits := fits_of_execDrw_next hdraw
  obtain ⟨t', hdraw', hfirst, -, -, -, -, hframe⟩ := (drawXorsSprite x y n s hn).1 hfits
  cases hdraw.symm.trans hdraw'
  obtain ⟨-, hi, -, -, -, hmem, -⟩ := hframe
  obtain ⟨u, hagain, hsecond, hon, hoff, -⟩ := (drawXorsSprite x y n t hn).1 (hi ▸ hfits)
  simp only [hx, hy, covers_congr hi hmem] at hsecond hon hoff
  have hturned : (∃ px py, Covers s (s.reg x) (s.reg y) n px py ∧ pixel t.fb px py = true) ↔
      ∃ px py, pixel s.fb px py = false ∧ pixel t.fb px py = true := by
    refine exists₂_congr fun px py => and_congr_left fun hlit => ⟨fun hcov => ?_, fun hdark => ?_⟩
    · simpa [hlit] using (hfirst px py).1 hcov
    · by_contra hcov
      simpa [hlit, hdark] using (hfirst px py).2 hcov
  rw [hturned] at hon hoff
  refine ⟨u, hagain, fun px py => ?_, fun hvf => ?_, hon⟩
  · by_cases hcov : Covers s (s.reg x) (s.reg y) n px py
    · rw [(hsecond px py).1 hcov, (hfirst px py).1 hcov, Bool.not_not]
    · rw [(hsecond px py).2 hcov, (hfirst px py).2 hcov]
  · by_contra hnone
    exact absurd (hvf.symm.trans (hoff hnone)) (by decide)

end Sys2Proof.Machine
end

section
/-! SUPPORT. Keys and timers: where a skip on a key goes and when it faults, what LD Vx, K leaves by what the key search
answers, and the frames of a taken key and of a write to a timer. -/
namespace Sys2Proof.Machine

/-- SKP and SKNP complete where V[x] names a key (45_input_timers R280, R281) … -/
theorem skipOnKey_completes {s : State} {x : RegIx} (want : Bool) (h : (s.reg x).toNat ≤ 0x0F) :
    skipOnKey x want s = .next (s.skipIf (s.key (s.reg x).toNat == want)) :=
  (skipOnKey_eq x want s).trans (if_pos h)

/-- … and fault where it names none (45_input_timers R292, D12). -/
theorem skipOnKey_faults {s : State} {x : RegIx} (want : Bool) (h : 0x0F < (s.reg x).toNat) :
    skipOnKey x want s = .fault (.keyIndexOutOfRange (s.reg x)) :=
  (skipOnKey_eq x want s).trans (if_neg (Nat.not_le.2 h))

/-- SKP skips on a pressed key. -/
theorem skipIf_key_beq_true_pc (s : State) (k : Nat) :
    (s.skipIf (s.key k == true)).pc = if s.keys.getLsbD k = true then s.pc + 4 else s.pc + 2 := by
  rw [beq_true]; rfl

/-- SKNP skips on a key that is not pressed. -/
theorem skipIf_key_beq_false_pc (s : State) (k : Nat) :
    (s.skipIf (s.key k == false)).pc = if s.keys.getLsbD k = true then s.pc + 2 else s.pc + 4 := by
  rw [skipIf_pc, State.key]
  cases s.keys.getLsbD k <;> rfl

/-- LD Vx, K takes the key that the search answers … -/
theorem execLdVxK_some {s : State} {k : Nat} (x : RegIx) (h : s.leastKey = some k) :
    execLdVxK x s = .next (s.takeKey x k) := by
  rw [execLdVxK, State.awaitKey, h]

/-- … and waits where it answers none. -/
theorem execLdVxK_none {s : State} (x : RegIx) (h : s.leastKey = none) :
    execLdVxK x s = .next (s.setMode (.awaitingKey x)) := by
  rw [execLdVxK, State.awaitKey, h]

/-- A key's number fits the register. -/
theorem reg_takeKey_toNat (s : State) (x : RegIx) {k : Nat} (hk : k < 16) : ((s.takeKey x k).reg x).toNat = k := by
  rw [State.takeKey, advance_reg, reg_setReg_self, BitVec.toNat_ofNat, Nat.mod_eq_of_lt (by omega)]

/-- Taking a key is an ending that writes V[x] alone. -/
theorem onlyRegs_takeKey (s : State) (x : RegIx) (k : Nat) : OnlyRegs (· = x) s (s.takeKey x k) :=
  onlyRegs_finishReg s x (BitVec.ofNat 8 k)

theorem onlyTimers_setDt (s : State) (b : Byte) : OnlyTimers s (s.setDt b) :=
  ⟨fun _ _ => rfl, rfl, rfl, ⟨fun _ _ => rfl, rfl⟩, ⟨rfl, rfl⟩, fun _ => rfl, ⟨rfl, rfl, rfl, rfl, rfl⟩⟩

theorem onlyTimers_setSt (s : State) (b : Byte) : OnlyTimers s (s.setSt b) :=
  ⟨fun _ _ => rfl, rfl, rfl, ⟨fun _ _ => rfl, rfl⟩, ⟨rfl, rfl⟩, fun _ => rfl, ⟨rfl, rfl, rfl, rfl, rfl⟩⟩

/-- This frame leaves pc open. -/
theorem OnlyTimers.advance {s t : State} (h : OnlyTimers s t) : OnlyTimers s t.advance := h

end Sys2Proof.Machine
end

section
/-! PROOFS. Input keys and timers (45_input_timers R280 to R292). -/
namespace Sys2Proof.Machine

/-- Settles O38, by whether V[x] names a key; the two skips are the two wanted states of that key. -/
theorem keySkips : Obligations.KeySkips := by
  unfold Obligations.KeySkips
  refine fun x s => ⟨fun hkey => ⟨?_, ?_⟩, fun hout => ⟨skipOnKey_faults true hout, skipOnKey_faults false hout⟩⟩
  · exact ⟨_, skipOnKey_completes true hkey, onlyPc_skipIf s _, skipIf_key_beq_true_pc s _⟩
  · exact ⟨_, skipOnKey_completes false hkey, onlyPc_skipIf s _, skipIf_key_beq_false_pc s _⟩

/-- Settles O39: the search finds `k`, the least key, and it is taken, or it finds none and the wait begins. -/
theorem keyWait : Obligations.KeyWait := by
  unfold Obligations.KeyWait
  refine fun x s => ⟨fun k hk hp hleast => ?_, fun hnone => ?_⟩
  · have hleastKey : s.leastKey = some k := leastKey_some.2 ⟨hk, hp, hleast⟩
    exact ⟨_, execLdVxK_some x hleastKey, reg_takeKey_toNat s x hk, rfl, onlyRegs_takeKey s x k⟩
  · have hnoKey : s.leastKey = none := leastKey_none.2 hnone
    exact ⟨_, execLdVxK_none x hnoKey, rfl, rfl, rfl, fun _ _ => rfl, rfl, rfl, ⟨rfl, rfl⟩, ⟨fun _ _ => rfl, rfl⟩,
      fun _ => rfl, ⟨rfl, rfl, rfl, rfl, rfl⟩⟩

/-- Settles O40: each of the three writes one register or one timer, and advances. -/
theorem timerMoves : Obligations.TimerMoves := by
  unfold Obligations.TimerMoves
  refine fun x s => ⟨?_, ?_, ?_⟩
  · exact ⟨_, rfl, reg_finishReg_self s x s.dt, rfl, onlyRegs_finishReg s x s.dt⟩
  · exact ⟨_, rfl, rfl, rfl, rfl, (onlyTimers_setDt s (s.reg x)).advance⟩
  · exact ⟨_, rfl, rfl, rfl, rfl, (onlyTimers_setSt s (s.reg x)).advance, bne_iff_ne⟩

/-- Settles O41: each tick is `tick` on its own timer, which takes one off and stays at 0. -/
theorem ticksClampAtZero : Obligations.TicksClampAtZero := by
  unfold Obligations.TicksClampAtZero
  exact fun s => ⟨⟨tick_toNat s.dt, rfl, rfl, onlyTimers_setDt s _⟩, ⟨tick_toNat s.st, rfl, rfl, onlyTimers_setSt s _⟩⟩

end Sys2Proof.Machine
end

section
/-! SUPPORT. Faults: what a faulting step leaves and reports, and the events in which an instruction raises a fault, said
once beside `Effect`, which says what a completed instruction leaves. -/
namespace Sys2Proof.Machine

/-- A faulting step leaves what the environment left, with the fault recorded (60_exceptions R300, R301) … -/
theorem afterStep_of_fault {s : State} {f : Fault} (hs : s.fault = none) (h : step s = .fault f) :
    s.afterStep = s.arrive.recordFault f := by
  rw [State.afterStep, hs, h]

/-- … and the driver is told the fault (10_state R58). -/
theorem report_of_fault {s : State} {f : Fault} (hs : s.fault = none) (h : step s = .fault f) :
    s.report = .fault f := by
  rw [State.report, hs, h]

/-- The event in which an instruction raises a fault, each with its code and its info (60_exceptions R302). -/
inductive FaultEvent (s : State) (i : Instr) : Fault → Prop where
  /-- CALL with no room on the stack (R303). -/
  | overflow {nnn : BitVec 12} (hi : i = .call nnn) (full : 16 ≤ s.stack.length) : FaultEvent s i (.stackOverflow s.pc)
  /-- RET with no address saved (R304). -/
  | underflow (hi : i = .ret) (empty : s.stack = []) : FaultEvent s i (.stackUnderflow s.pc)
  /-- DRW with a row of its sprite above memory (R305). -/
  | sprite {x y : RegIx} {n : Nat} (hi : i = .drw x y n) (rows : n ≠ 0) (above : 0x1000 < s.i.toNat + n) :
    FaultEvent s i (.memoryOutOfBounds (max s.i.toNat 0x1000) .read)
  /-- LD B with a digit above memory (R305). -/
  | digits {x : RegIx} (hi : i = .ldB x) (above : 0xFFF < s.i.toNat + 2) :
    FaultEvent s i (.memoryOutOfBounds (max s.i.toNat 0x1000) .write)
  /-- LD [I] with a register's byte above memory (R305). -/
  | store {x : RegIx} (hi : i = .storeRegs x) (above : 0xFFF < s.i.toNat + x.val) :
    FaultEvent s i (.memoryOutOfBounds (max s.i.toNat 0x1000) .write)
  /-- LD Vx, [I] with a register's byte above memory (R305). -/
  | load {x : RegIx} (hi : i = .loadRegs x) (above : 0xFFF < s.i.toNat + x.val) :
    FaultEvent s i (.memoryOutOfBounds (max s.i.toNat 0x1000) .read)
  /-- SKP and SKNP where V[x] names no key (45_input_timers R292). -/
  | key {x : RegIx} (hi : i = .skp x ∨ i = .sknp x) (noKey : 0x0F < (s.reg x).toNat) :
    FaultEvent s i (.keyIndexOutOfRange (s.reg x))

theorem faultEvent_skipOnKey {s : State} {f : Fault} {i : Instr} {x : RegIx} {want : Bool}
    (hi : i = .skp x ∨ i = .sknp x) (h : skipOnKey x want s = .fault f) : FaultEvent s i f := by
  rw [skipOnKey_eq] at h
  split at h <;> cases h
  exact .key hi (by omega)

/-- A store that faults does so because its bytes do not all lie in memory. -/
theorem above_of_storeAtIndex_fault {s : State} {f : Fault} {bytes : List Byte} (h0 : bytes.length ≠ 0)
    (h : storeAtIndex bytes s = .fault f) :
    0x1000 < s.i.toNat + bytes.length ∧ f = .memoryOutOfBounds (max s.i.toNat 0x1000) .write := by
  rw [storeAtIndex_eq bytes s h0] at h
  split at h <;> cases h
  exact ⟨by omega, rfl⟩

/-- Why an instruction faults, said once. -/
theorem faultEvent_of_exec {i : Instr} {s : State} {f : Fault} (h : exec i s = .fault f) : FaultEvent s i f := by
  cases i with
  | ret =>
    obtain hs | ⟨below, u, hs⟩ := s.stack.eq_nil_or_concat'
    · rw [exec, execRet_nil hs] at h; cases h
      exact .underflow rfl hs
    · rw [exec, execRet_append hs] at h; cases h
  | call nnn =>
    rw [exec, execCall_eq] at h
    split at h <;> cases h
    exact .overflow rfl (by omega)
  | drw x y n =>
    rw [exec, execDrw_eq] at h
    split at h <;> cases h
    exact .sprite rfl (by omega) (by omega)
  | skp => exact faultEvent_skipOnKey (.inl rfl) h
  | sknp => exact faultEvent_skipOnKey (.inr rfl) h
  | ldB x =>
    obtain ⟨above, rfl⟩ := above_of_storeAtIndex_fault (by simp) h
    exact .digits rfl (by rw [bcdDigits_length] at above; omega)
  | storeRegs x =>
    obtain ⟨above, rfl⟩ := above_of_storeAtIndex_fault (by simp) h
    exact .store rfl (by rw [regsUpTo_length] at above; omega)
  | loadRegs x =>
    rw [exec, execLoadRegs_eq] at h
    split at h <;> cases h
    exact .load rfl (by omega)
  | _ => nomatch h

end Sys2Proof.Machine
end

section
/-! PROOFS. Faults (60_exceptions R300 to R308). -/
namespace Sys2Proof.Machine

/-- Settles O45: after the step only the fault record differs from what the environment left, and at a recorded fault the
next call changes nothing (O44). -/
theorem faultsArePreciseAndSticky : Obligations.FaultsArePreciseAndSticky := by
  unfold Obligations.FaultsArePreciseAndSticky
  intro s f hs h
  obtain ⟨-, hstays, -⟩ := noStepAfterFault (s.arrive.recordFault f) f rfl
  rw [afterStep_of_fault hs h]
  exact ⟨report_of_fault hs h, rfl, rfl, rfl, fun _ _ => rfl, rfl, rfl, ⟨rfl, rfl⟩, ⟨fun _ _ => rfl, rfl⟩,
    fun _ => rfl, rfl, hstays⟩

/-- Settles O46: a wait and an unknown opcode complete, a fetch faults only above memory, and an instruction only in one
of its events; what the environment does before the step reaches none of the state they turn on. -/
theorem onlyTheseEventsFault : Obligations.OnlyTheseEventsFault := by
  unfold Obligations.OnlyTheseEventsFault
  intro s f hs h
  obtain ⟨x, -, hx⟩ | ⟨⟨hrun, -⟩, hpc, hx⟩ | ⟨i, hr, hx⟩ | ⟨w, u, -, -, -, hx⟩ := step_cases hs <;> rw [h] at hx
  · cases hx
  · cases hx
    exact ⟨hrun, .inl ⟨by omega, rfl⟩⟩
  · have ⟨⟨hrun, _⟩, _⟩ := hr
    refine ⟨hrun, .inr ⟨i, hr, ?_⟩⟩
    cases faultEvent_of_exec hx.symm with
    | overflow hi full => exact .inl ⟨_, hi, full, rfl⟩
    | underflow hi empty => exact .inr (.inl ⟨hi, empty, rfl⟩)
    | sprite hi rows above => exact .inr (.inr (.inl ⟨_, _, _, hi, rows, above, rfl⟩))
    | digits hi above => exact .inr (.inr (.inr (.inl ⟨_, hi, above, rfl⟩)))
    | store hi above => exact .inr (.inr (.inr (.inr (.inl ⟨_, hi, above, rfl⟩))))
    | load hi above => exact .inr (.inr (.inr (.inr (.inr (.inl ⟨_, hi, above, rfl⟩)))))
    | key hi noKey => exact .inr (.inr (.inr (.inr (.inr (.inr ⟨_, hi, noKey, rfl⟩)))))
  · cases hx

end Sys2Proof.Machine
end

section
/-! PROOFS. Memory after reset, a timer read back, and the idle point (70_reset_and_hazards R331, R333, R341, R345). -/
namespace Sys2Proof.Machine

/-- The font lies at 0x000, so its bytes are what the first 80 addresses read as where memory lists nothing. -/
theorem map_unlistedByte_range_eq_font : (List.range 80).map unlistedByte = font := by decide

/-- A jump to the address that pc holds leaves the state as it is. -/
theorem exec_jp_eq_self {nnn : BitVec 12} {s : State} (h : s.pc = addrOperand nnn) : exec (.jp nnn) s = .next s := by
  rw [exec, execJp, ← h]; rfl

/-- What an idle point is made of (mode, fault record, pc and memory) the environment does not change. -/
theorem Idle.arrive {s : State} (h : Idle s) : Idle s.arrive := h

/-- Settles O58: the step executes the jump in the state the environment left, where pc is already its target. -/
theorem idlePointStays : Obligations.IdlePointStays := by
  unfold Obligations.IdlePointStays
  intro s hidle
  have ⟨nnn, hr, hpc⟩ := hidle
  exact ⟨(step_of_runs hr).trans (exec_jp_eq_self hpc), hidle.arrive⟩

/-- Settles O6: at reset memory lists nothing, so every address reads as its reset contents, the font and then zeros. -/
theorem resetMemory : Obligations.ResetMemory := by
  unfold Obligations.ResetMemory
  exact ⟨map_unlistedByte_range_eq_font, fun _ ha => unlistedByte_above ha⟩

/-- Settles O43: the first instruction sets DT to V[x], the environment ticks it down before the second step, and that step
copies what is left to V[y]. -/
theorem timerReadBackAfterTicks : Obligations.TimerReadBackAfterTicks := by
  unfold Obligations.TimerReadBackAfterTicks
  intro x y s t hset hr
  obtain ⟨-, ⟨t', ht', hdt, -⟩, -⟩ := timerMoves x s
  obtain rfl : t' = t := Host.Outcome.next.inj (ht'.symm.trans hset)
  obtain ⟨⟨u, hread, hreg, -⟩, -⟩ := timerMoves y t'.arrive
  refine ⟨u, (step_of_runs hr).trans hread, ?_⟩
  rw [hreg, arrive_dt, tickBy_toNat, hdt]

end Sys2Proof.Machine
end
